-- ==== Sys2Proof/Word.lean ====
section
/-! DEFINITION. The word of the block: 64 bits, bit 0 the least significant (spec/00_scope.md R6). -/

namespace Sys2Proof

/-- Every data value of the block: 64 bits read as an unsigned integer (R6). -/
abbrev Word := BitVec 64

/-- A register index on the port `idx` (R20, R40). -/
abbrev RegIndex := BitVec 3

end Sys2Proof
end

