-- ==== Sys2Proof/Config.lean ====
section
/-! DEFINITION. What is fixed for the block (spec/00_scope.md R5, spec/10_state.md R34) and what the spec leaves
open: the free values are constants without a body, so nothing can be proved about the value they have. -/

namespace Sys2Proof

/-- `BASE[0..11]`, the read-only table of witness bases (R34). -/
def Config.baseTable : Vector Word 12 :=
  #v[2, 3, 5, 7, 11, 13, 17, 19, 23, 29, 31, 37]

/-- The n-th draw of `unspecified64` (R11): a value about which the spec promises nothing. Log 4 and 6. -/
opaque Config.unspecified64 : Nat → Word

/-- `rem64(u, 0)` has no value (R7). No rule applies it with modulus 0; left free. Log 7. -/
opaque Config.remByZero : Word → Word

/-- The table has no entry 12 to 15 and is never read there (R62, R154); left free. Log 8. -/
opaque Config.beyondTable : Nat → Word

/-- The schedule is open (R41, R255): how many edges the block sits out before its n-th drawn turn. A natural
number, hence finite: this is the fairness of R255. Log 2. -/
opaque Config.idleEdges : Nat → Nat

/-- The schedule is open (R5, R255): how many level-B steps beyond the first the n-th drawn turn makes. Log 2. -/
opaque Config.extraSteps : Nat → Nat

end Sys2Proof
end

