-- ==== Sys2Proof/Syntax.lean ====
section
/-! DEFINITION. The five commands of the block (spec/30_encoding.md R72), the rows of spec/opcode_table.json. A
command word carries no operand (R70), so no constructor has an argument. -/

namespace Sys2Proof

/-- The commands, in the document's order (R72). -/
inductive Instr where
  /-- `MODADD`, command word 0 (R100). -/
  | modadd
  /-- `MODSUB`, command word 1 (R110). -/
  | modsub
  /-- `MODMUL`, command word 2 (R120). -/
  | modmul
  /-- `MODPOW`, command word 3 (R135). -/
  | modpow
  /-- `ISPRIME`, command word 4 (R150). -/
  | isprime
deriving DecidableEq, Repr

end Sys2Proof
end

