-- ==== Sys2Proof/WellFormed.lean ====
section
/-! DEFINITION. Which commands and which command words are legal (spec/30_encoding.md R70, R71). -/

namespace Sys2Proof

/-- A command carries no operand (R70), so every command is well formed. -/
def Instr.wellFormed : Instr → Bool
  | .modadd => true
  | .modsub => true
  | .modmul => true
  | .modpow => true
  | .isprime => true

/-- The check on a command word: `w[63:3] == 0` and `w[2:0] <= 4` (R71). -/
def legalWord (w : Word) : Bool :=
  w.extractLsb' 3 61 == 0#61 && decide (w.extractLsb' 0 3 ≤ 4#3)

end Sys2Proof
end

