-- ==== Sys2Proof/Decode.lean ====
section
/-! DEFINITION. Decoding and encoding of command words, format C (spec/30_encoding.md R70 to R74), and of the 68-bit
transaction words (R79). The block sees whole 64-bit words, never bytes (spec/20_memory.md R51). -/

namespace Sys2Proof

/-- Field `OP`, bits 2:0 (R70). -/
def opField (w : Word) : BitVec 3 := w.extractLsb' 0 3

/-- Field `ZERO`, bits 63:3 (R70). -/
def zeroField (w : Word) : BitVec 61 := w.extractLsb' 3 61

/-- The opcode map (R72); 5, 6 and 7 are reserved (R74). -/
def decodeOp (op : BitVec 3) : Option Instr :=
  match op.toNat with
  | 0 => some .modadd
  | 1 => some .modsub
  | 2 => some .modmul
  | 3 => some .modpow
  | 4 => some .isprime
  | _ => none

/-- Total on every 64-bit word (R71): one of the five commands, or reserved. -/
def decodeWord (w : Word) : Option Instr :=
  if zeroField w = 0#61 then decodeOp (opField w) else none

/-- The opcode of a command (R72). -/
def opcodeOf : Instr → BitVec 3
  | .modadd => 0b000#3
  | .modsub => 0b001#3
  | .modmul => 0b010#3
  | .modpow => 0b011#3
  | .isprime => 0b100#3

/-- The command word of a command: `ZERO` all zero, `OP` its opcode (R70, R72). -/
def encode (i : Instr) : Word := 0#61 ++ opcodeOf i

/-- The decoder on a word numbered as spec/opcode_table.json numbers it: the block takes the whole 64-bit word, bit 0
the least significant (R6, R51); bits from `nbits` on are zero. Log 12. -/
def decodeTableWord (nbits w : Nat) : Option Instr :=
  if w % 2 ^ nbits < 2 ^ 64 then decodeWord (BitVec.ofNat 64 (w % 2 ^ nbits)) else none

/-- A host transaction, the three port values of the clock in which `req = 1` (R79). -/
structure Transaction where
  we : Bool
  idx : RegIndex
  wdata : Word
deriving DecidableEq, Repr

/-- The 68-bit word of a transaction: `we` in bit 67, `idx` in 66:64, `wdata` in 63:0, which is 0 for a read (R79). -/
def transactionWord (t : Transaction) : BitVec 68 :=
  BitVec.ofBool t.we ++ t.idx ++ (if t.we then t.wdata else 0#64)

/-- The transaction a 68-bit word stands for (R79); a read whose `wdata` is not 0 is no transaction word. -/
def decodeTransaction (x : BitVec 68) : Option Transaction :=
  if x.getLsbD 67 then some ⟨true, x.extractLsb' 64 3, x.extractLsb' 0 64⟩
  else if x.extractLsb' 0 64 = 0#64 then some ⟨false, x.extractLsb' 64 3, 0#64⟩ else none

end Sys2Proof
end

