-- ==== Sys2Proof/Machine/State.lean ====
section
/-! DEFINITION. The state of the block and of the host that drives it (spec/10_state.md), as plain data, and the state
right after reset (spec/70_reset_and_hazards.md R240, R241). -/

namespace Sys2Proof.Machine

/-- The five implemented bits of `STATUS`; bits 63:5 read as 0 (R26). -/
structure Status where
  busy : Bool
  done : Bool
  fMzero : Bool
  fIllegal : Bool
  fOverrun : Bool
deriving DecidableEq, Repr

/-- The causes of a fault of the block (R200). Taking one is a next state (R210), not a stop of the machine. -/
inductive Cause where
  | modulusZero
  | illegalCommand
  | overrun
deriving DecidableEq, Repr

/-- The phase, a function of `STATUS` (R27). -/
inductive Phase where
  | idleEmpty
  | busy
  | idleDone
  | faulted
deriving DecidableEq, Repr

/-- `MUL.M`, `MUL.A`, `MUL.B`, `MUL.R` (R31). -/
structure MulRegs where
  m : Word
  a : Word
  b : Word
  r : Word
deriving DecidableEq, Repr

/-- `POW.M`, `POW.A`, `POW.B`, `POW.R` (R32). -/
structure PowRegs where
  m : Word
  a : Word
  b : Word
  r : Word
deriving DecidableEq, Repr

/-- The eight values of the 3 bits of `MRE.PH` (R33): the four phases, and the four codes that name none. Which code is
which is not given. Log 11. -/
inductive MrePhase where
  | classify
  | decomp
  | base
  | square
  /-- one of the four codes that name no phase -/
  | unnamed (k : Fin 4)
deriving DecidableEq, Repr

/-- The four values of the 2 bits of `MRE.BST[i]` (R33, R160): the three per-base states, and the code that names none.
Which code is which is not given. Log 11. -/
inductive BaseState where
  | untested
  | probablePrime
  | composite
  /-- the code that names no state -/
  | unnamed
deriving DecidableEq, Repr

/-- The registers of MRE (R33), each at the width the spec gives. -/
structure MreRegs where
  n : Word
  d : Word
  r : BitVec 6
  i : BitVec 4
  x : Word
  j : BitVec 6
  ph : MrePhase
  bst : Vector BaseState 12
deriving DecidableEq, Repr

/-- The input ports sampled at one rising clock edge (R40). -/
structure PortsIn where
  rst : Bool
  req : Bool
  we : Bool
  idx : RegIndex
  wdata : Word
deriving DecidableEq, Repr

/-- A host statement (R77, R78): the port values of one edge, or the polling loop `WAIT`. Log 1. -/
inductive HostStmt where
  /-- One clock edge with these port values. -/
  | edge (p : PortsIn)
  /-- `WAIT`: `RD STATUS`, once an edge, until `v[4:1] != 0`; only the last value goes to the read log (R78). -/
  | wait
deriving DecidableEq, Repr

/-- One turn of the block's sequencer (the open schedule of R41 and R255): it sits out `idle` edges, then makes
`extra + 1` level-B steps at one edge. The model's own, log 2. -/
structure Turn where
  idle : Nat
  extra : Nat
deriving DecidableEq, Repr

/-- The state: host-visible registers (R20 to R26), hidden registers (R30 to R33), the sequencer's place (log 5), the
host (R77, R80; log 1), and the model's own counters of free draws (log 2, log 6). -/
structure State where
  /-- `OPA` (R20, R21) -/
  opa : Word
  /-- `OPB` (R20, R21) -/
  opb : Word
  /-- `OPM` (R20, R21) -/
  opm : Word
  /-- `CMD`, the last accepted command word (R25) -/
  cmd : Word
  /-- `STATUS` (R26) -/
  status : Status
  /-- the stored `RESULT`; what a read returns is R22 -/
  result : Word
  /-- operand latch `LA` (R30) -/
  la : Word
  /-- operand latch `LB` (R30) -/
  lb : Word
  /-- operand latch `LM` (R30) -/
  lm : Word
  /-- `MUL.*` (R31) -/
  mul : MulRegs
  /-- `POW.*` (R32) -/
  pow : PowRegs
  /-- `MRE.*` (R33) -/
  mre : MreRegs
  /-- whether the running command's load step has been taken (R122, R137, R158: "the first block step after
  acceptance"). Implied by those rules, named by the model. Log 5. -/
  loaded : Bool
  /-- the host's statements not yet presented, the next one first. Log 1. -/
  script : List HostStmt
  /-- the host's read log, oldest value first (R77, R80) -/
  readLog : List Word
  /-- the block's turns already decided, the current one first; when empty the next one is drawn. Log 2. -/
  turns : List Turn
  /-- how many turns have been drawn. Log 2. -/
  turnCount : Nat
  /-- how many values `unspecified64` have been drawn. Log 6. -/
  freeCount : Nat
deriving DecidableEq, Repr

/-- Reasons the MACHINE stops with a fault: none. The three faults of the block are next states (R210), and no rule of
the spec leaves a step without an outcome, so nobody raises a stop here. Safe: nothing is cut off. -/
inductive Fault where
deriving DecidableEq, Repr

/-- Reasons a step is refused. -/
inductive Refusal where
  /-- Raised only by an arm of `exec` whose command has no meaning yet; no arm is left so. Safe: a refused step
  proves nothing about the hardware. -/
  | notModelled (mnemonic : String)
deriving DecidableEq, Repr

/-- The machine right after reset (R240, R241): every host-visible register 0. The hidden registers, which the spec
leaves unspecified, hold 0, `CLASSIFY` and `UNTESTED` here: DESIGN CHOICE, log 3. No host statement and no turn is
pending: log 1, log 2. -/
def State.reset : State where
  opa := 0#64
  opb := 0#64
  opm := 0#64
  cmd := 0#64
  status := ⟨false, false, false, false, false⟩
  result := 0#64
  la := 0#64
  lb := 0#64
  lm := 0#64
  mul := ⟨0#64, 0#64, 0#64, 0#64⟩
  pow := ⟨0#64, 0#64, 0#64, 0#64⟩
  mre := ⟨0#64, 0#64, 0#6, 0#4, 0#64, 0#6, .classify, Vector.replicate 12 .untested⟩
  loaded := false
  script := []
  readLog := []
  turns := []
  turnCount := 0
  freeCount := 0

end Sys2Proof.Machine
end

