-- ==== Sys2Proof/Machine/Datapath.lean ====
section
/-! DEFINITION. The datapath primitives (spec/00_scope.md R7): 64-bit, unsigned, wrapping. -/

namespace Sys2Proof.Machine

/-- `add64(u, v)`: (u + v) mod 2^64 (R7). -/
def add64 (u v : Word) : Word := u + v

/-- `sub64(u, v)`: (u - v) mod 2^64 (R7). -/
def sub64 (u v : Word) : Word := u - v

/-- `rem64(u, m)`: the remainder of unsigned division for m != 0; for m = 0 it has no value (R7) and the model leaves
it free. Log 7. -/
def rem64 (u m : Word) : Word := if m = 0#64 then Config.remByZero u else u % m

/-- `shr1(u)`: logical shift right by one (R7). -/
def shr1 (u : Word) : Word := u >>> 1

/-- `u[0]` (R7). -/
def lowBit (u : Word) : Bool := u.getLsbD 0

/-- `bitlen(u)`: 0 for 0, else 1 + the index of the highest set bit (R7). -/
def bitlen (u : Word) : Nat := if u = 0#64 then 0 else u.toNat.log2 + 1

/-- `popcount(u)`: the number of set bits (R7). -/
def popcount (u : Word) : Nat := ((List.range 64).filter fun k => u.getLsbD k).length

end Sys2Proof.Machine
end

