-- ==== Sys2Proof/Machine/Flags.lean ====
section
/-! DEFINITION. The flags of the block: `STATUS` (spec/10_state.md R26), the phase (R27) and the level outputs (R40).
No command writes an arithmetic flag (R26). -/

namespace Sys2Proof.Machine

/-- `STATUS.F_MZERO | STATUS.F_ILLEGAL | STATUS.F_OVERRUN` (R75). -/
def anyFault (st : Status) : Bool := st.fMzero || st.fIllegal || st.fOverrun

/-- The word `RegRead(4)` returns: `zext_64({F_OVERRUN, F_ILLEGAL, F_MZERO, DONE, BUSY})` (R26, R53). -/
def statusWord (st : Status) : Word :=
  (BitVec.ofBool st.fOverrun ++ BitVec.ofBool st.fIllegal ++ BitVec.ofBool st.fMzero ++ BitVec.ofBool st.done ++
    BitVec.ofBool st.busy).setWidth 64

/-- The fault bits that are 1, as a number (R27: "exactly one bit is 1"). -/
def faultBits (st : Status) : Nat := st.fMzero.toNat + st.fIllegal.toNat + st.fOverrun.toNat

/-- The phase (R27). Only the four combinations of R27 occur; any other is `none`. -/
def phaseOf (st : Status) : Option Phase :=
  match st.busy, st.done, faultBits st with
  | false, false, 0 => some .idleEmpty
  | true, false, 0 => some .busy
  | false, true, 0 => some .idleDone
  | false, false, 1 => some .faulted
  | _, _, _ => none

/-- The status after fault entry (R210): the cause's bit set, `BUSY` and `DONE` cleared, the other bits kept. -/
def statusFaulted (c : Cause) (st : Status) : Status :=
  match c with
  | .modulusZero => { st with fMzero := true, busy := false, done := false }
  | .illegalCommand => { st with fIllegal := true, busy := false, done := false }
  | .overrun => { st with fOverrun := true, busy := false, done := false }

/-- The status after acceptance (R75): `DONE <- 0 ; BUSY <- 1`. -/
def statusAccepted (st : Status) : Status := { st with done := false, busy := true }

/-- The status after completion (R29): `BUSY <- 0 ; DONE <- 1`. -/
def statusCompleted (st : Status) : Status := { st with busy := false, done := true }

/-- Output `busy` (R40). -/
def busyOut (s : State) : Bool := s.status.busy

/-- Output `done` (R40). -/
def doneOut (s : State) : Bool := s.status.done

/-- Output `fault` (R40). -/
def faultOut (s : State) : Bool := anyFault s.status

end Sys2Proof.Machine
end

