-- ==== Sys2Proof/Machine/Operands.lean ====
section
/-! DEFINITION. The operands. A command word carries none (spec/30_encoding.md R70, R73): a is `OPA`, b is `OPB`, m and
n are `OPM`, copied to the latches at acceptance (spec/10_state.md R30) and read only there. -/

namespace Sys2Proof.Machine

/-- `LA <- OPA ; LB <- OPB ; LM <- OPM` (R30). -/
def latchOperands (s : State) : State := { s with la := s.opa, lb := s.opb, lm := s.opm }

/-- The values of the running command's operands a, b and m: the latches, never `OPA`, `OPB`, `OPM` (R30). -/
def operandA (s : State) : Word := s.la
/-- See `operandA`. -/
def operandB (s : State) : Word := s.lb
/-- See `operandA`; for `ISPRIME` this is n (R73). -/
def operandM (s : State) : Word := s.lm

/-- Which commands are modular, so that `OPM == 0` is a fault: words 0 to 3 (R201). `ISPRIME` takes any `OPM`. -/
def needsModulus : Instr → Bool
  | .modadd => true
  | .modsub => true
  | .modmul => true
  | .modpow => true
  | .isprime => false

end Sys2Proof.Machine
end

