-- ==== Sys2Proof/Machine/Ops.lean ====
section
/-! DEFINITION. The shared operations over the registers: free draws, `RegRead` (spec/20_memory.md R53), storing to an
operand register, acceptance (spec/30_encoding.md R75), completion (spec/10_state.md R29), fault entry
(spec/60_exceptions.md R210), and the event `Reset` (spec/70_reset_and_hazards.md R240), which is the only way out of a
fault (R212). -/

namespace Sys2Proof.Machine

/-- Fault entry, the whole effect of `raise F` (R210): taking an exception on this block. -/
def faultEntry (c : Cause) (s : State) : State := { s with status := statusFaulted c s.status }

/-- Acceptance of a command word (R75, R30). `RESULT` is left as it was. The sequencer has not loaded yet (log 5). -/
def accept (w : Word) (s : State) : State :=
  { latchOperands s with cmd := w, status := statusAccepted s.status, loaded := false }

/-- The command step of a legal word (R75), in the order of R206: nothing in phase FAULTED; `Overrun` when busy;
`ModulusZero` for a modular command with `OPM == 0`; else acceptance. -/
def commandOf (i : Instr) (s : State) : State :=
  if anyFault s.status then s
  else if s.status.busy then faultEntry .overrun s
  else if needsModulus i && s.opm == 0#64 then faultEntry .modulusZero s
  else accept (encode i) s

/-- The command step of a reserved word (R75, R74), in the order of R206. -/
def reservedCommand (s : State) : State :=
  if anyFault s.status then s
  else if s.status.busy then faultEntry .overrun s
  else faultEntry .illegalCommand s

/-- The step `Complete` (R29). -/
def complete (value : Word) (s : State) : State :=
  { s with result := value, status := statusCompleted s.status }

/-- Whether `RegRead(5)` yields `unspecified64` (R22). -/
def resultHidden (s : State) : Bool := s.status.busy || anyFault s.status

/-- The value of `RegRead(i)` (R53, R22, R23). -/
def readValue (i : RegIndex) (s : State) : Word :=
  match i.toNat with
  | 0 => s.opa
  | 1 => s.opb
  | 2 => s.opm
  | 3 => s.cmd
  | 4 => statusWord s.status
  | 5 => if resultHidden s then Config.unspecified64 s.freeCount else s.result
  | _ => 0#64

/-- A read changes no state of the block (R53); a read that yielded `unspecified64` has used up one free draw, so that
the next may differ (R11). Log 6. -/
def afterRead (i : RegIndex) (s : State) : State :=
  if i = 5#3 ∧ resultHidden s then { s with freeCount := s.freeCount + 1 } else s

/-- `RD`: the value returned is appended to the read log (R77). -/
def readToLog (i : RegIndex) (s : State) : State :=
  { afterRead i s with readLog := s.readLog ++ [readValue i s] }

/-- Stores to `OPA`, `OPB`, `OPM`; indices 4 to 7 have no effect (R54, R21 to R23, R26). Index 3 is the command step and
is not reached here. -/
def storeRegister (i : RegIndex) (v : Word) (s : State) : State :=
  match i.toNat with
  | 0 => { s with opa := v }
  | 1 => { s with opb := v }
  | 2 => { s with opm := v }
  | _ => s

/-- A numbering of the eight values of `MRE.PH`. The model uses it only to draw one of them: the hardware's codes are not
given, and no rule depends on them. Log 11. -/
def phaseNumbered (v : BitVec 3) : MrePhase :=
  match v.toNat with
  | 0 => .classify
  | 1 => .decomp
  | 2 => .base
  | 3 => .square
  | n => .unnamed (Fin.ofNat 4 n)

/-- A numbering of the four values of an entry of `MRE.BST`, used as `phaseNumbered` is. Log 11. -/
def baseStateNumbered (v : BitVec 2) : BaseState :=
  match v.toNat with
  | 0 => .untested
  | 1 => .probablePrime
  | 2 => .composite
  | _ => .unnamed

/-- A free draw for the 3 bits of `MRE.PH` (R240). Log 4. -/
def freePhase (k : Nat) : MrePhase := phaseNumbered ((Config.unspecified64 k).setWidth 3)

/-- A free draw for the 2 bits of an entry of `MRE.BST` (R240). Log 4. -/
def freeBaseState (k : Nat) : BaseState := baseStateNumbered ((Config.unspecified64 k).setWidth 2)

/-- `MRE.* <- unspecified` (R240), from the k-th draw on (19 draws). Log 4. -/
def freeMre (k : Nat) : MreRegs where
  n := Config.unspecified64 k
  d := Config.unspecified64 (k + 1)
  r := (Config.unspecified64 (k + 2)).setWidth 6
  i := (Config.unspecified64 (k + 3)).setWidth 4
  x := Config.unspecified64 (k + 4)
  j := (Config.unspecified64 (k + 5)).setWidth 6
  ph := freePhase (k + 6)
  bst := Vector.ofFn fun b => freeBaseState (k + 7 + b.val)

/-- The event `Reset` (R240): every host-visible register 0, every hidden register unspecified. The host's script and
read log and the model's counters are no part of the block and stay (log 1, log 2). -/
def resetEvent (s : State) : State :=
  { s with
    opa := 0#64
    opb := 0#64
    opm := 0#64
    cmd := 0#64
    status := ⟨false, false, false, false, false⟩
    result := 0#64
    la := Config.unspecified64 s.freeCount
    lb := Config.unspecified64 (s.freeCount + 1)
    lm := Config.unspecified64 (s.freeCount + 2)
    mul := ⟨Config.unspecified64 (s.freeCount + 3), Config.unspecified64 (s.freeCount + 4),
      Config.unspecified64 (s.freeCount + 5), Config.unspecified64 (s.freeCount + 6)⟩
    pow := ⟨Config.unspecified64 (s.freeCount + 7), Config.unspecified64 (s.freeCount + 8),
      Config.unspecified64 (s.freeCount + 9), Config.unspecified64 (s.freeCount + 10)⟩
    mre := freeMre (s.freeCount + 11)
    loaded := false
    freeCount := s.freeCount + 30 }

end Sys2Proof.Machine
end

