-- ==== Sys2Proof/Machine/Modadd.lean ====
section
/-! DEFINITION. `MODADD` and the unit ADD (spec/40_modadd.md). -/

namespace Sys2Proof.Machine

/-- `ADDM(a, b, m)` (R101). -/
def ADDM (a b m : Word) : Word :=
  let s := sub64 m b
  let t := if a ≥ s then sub64 a s else add64 a b
  rem64 t m

/-- `MODADD` (R100): its command step (R75). The completion is `blockModadd`. -/
def execModadd (s : State) : Host.Outcome State Fault Refusal := .next (commandOf .modadd s)

/-- `MODADD` at level B (R106, R256): ADD is combinational, so the first block step is `Complete`. -/
def blockModadd (s : State) : State := complete (ADDM (operandA s) (operandB s) (operandM s)) s

end Sys2Proof.Machine
end

