-- ==== Sys2Proof/Machine/Modmul.lean ====
section
/-! DEFINITION. `MODMUL` and the unit MUL, double-and-add (spec/42_modmul.md). -/

namespace Sys2Proof.Machine

/-- The while loop of R121 on the locals A, B, R. The fuel bounds the iterations; `bitlen(B)` is enough, since each
iteration shifts B. -/
def mulLoop : Nat → Word → Word → Word → Word → Word
  | 0, _, _, R, _ => R
  | fuel + 1, A, B, R, m =>
    if B = 0#64 then R
    else mulLoop fuel (ADDM A A m) (shr1 B) (if lowBit B then ADDM R A m else R) m

/-- The while loop of R121 from A, B, R until B is 0. -/
def mulWhile (A B R m : Word) : Word := mulLoop (bitlen B) A B R m

/-- `MULM(a, b, m)` (R121). For m = 0 it has no value (R12) and no run evaluates it (R201). The model's term then is 0 for
b = 0, where the loop never reaches `rem64`: DESIGN CHOICE, log 19. -/
def MULM (a b m : Word) : Word := mulWhile (rem64 a m) b 0#64 m

/-- `step MUL.Load(a, b, m)` (R122). -/
def mulLoad (a b m : Word) : MulRegs := ⟨m, rem64 a m, b, 0#64⟩

/-- `step MUL.Iterate` (R122): all right-hand sides read the old values. -/
def mulIterate (q : MulRegs) : MulRegs where
  m := q.m
  a := ADDM q.a q.a q.m
  b := shr1 q.b
  r := if lowBit q.b then ADDM q.r q.a q.m else q.r

/-- At most `fuel` iterations, stopping at `MUL.Done` (R122). -/
def mulIterations : Nat → MulRegs → MulRegs
  | 0, q => q
  | fuel + 1, q => if q.b = 0#64 then q else mulIterations fuel (mulIterate q)

/-- A whole run of MUL (R122), as POW and MRE start it: the registers it leaves. Log 9. -/
def mulRun (a b m : Word) : MulRegs := mulIterations (bitlen b) (mulLoad a b m)

/-- `MODMUL` (R120): its command step (R75). The block steps are `blockModmul`. -/
def execModmul (s : State) : Host.Outcome State Fault Refusal := .next (commandOf .modmul s)

/-- One level-B step of `MODMUL` (R122): load, iterate, or `Complete`. -/
def blockModmul (s : State) : State :=
  if !s.loaded then { s with mul := mulLoad (operandA s) (operandB s) (operandM s), loaded := true }
  else if s.mul.b ≠ 0#64 then { s with mul := mulIterate s.mul }
  else complete s.mul.r s

end Sys2Proof.Machine
end

