-- ==== Sys2Proof/Machine/Modpow.lean ====
section
/-! DEFINITION. `MODPOW` and the unit POW, square-and-multiply (spec/43_modpow.md). -/

namespace Sys2Proof.Machine

/-- The while loop of R136 on the locals A, B, R. The fuel bounds the iterations; `bitlen(B)` is enough, since each
iteration shifts B. -/
def powLoop : Nat → Word → Word → Word → Word → Word
  | 0, _, _, R, _ => R
  | fuel + 1, A, B, R, m =>
    if B = 0#64 then R
    else powLoop fuel (MULM A A m) (shr1 B) (if lowBit B then MULM R A m else R) m

/-- The while loop of R136 from A, B, R until B is 0. -/
def powWhile (A B R m : Word) : Word := powLoop (bitlen B) A B R m

/-- `POWM(a, b, m)` (R136). R starts at 1, not reduced modulo m. For m = 0 it has no value (R12) and no run evaluates it
(R201). The model's term then is 1 for b = 0, where the loop never reaches `rem64`: DESIGN CHOICE, log 19. -/
def POWM (a b m : Word) : Word := powWhile (rem64 a m) b 1#64 m

/-- `step POW.Load(a, b, m)` (R137). -/
def powLoad (a b m : Word) : PowRegs := ⟨m, rem64 a m, b, 1#64⟩

/-- `step POW.Iterate` (R137): all right-hand sides read the old values. -/
def powIterate (p : PowRegs) : PowRegs where
  m := p.m
  a := MULM p.a p.a p.m
  b := shr1 p.b
  r := if lowBit p.b then MULM p.r p.a p.m else p.r

/-- What an iteration leaves in MUL: the registers of its last run, `MULM(A, A, m)` (R127, R136). Log 9. -/
def powIterateMul (p : PowRegs) : MulRegs := mulRun p.a p.a p.m

/-- At most `fuel` iterations, stopping at `POW.Done` (R137), with the MUL registers they leave. -/
def powIterations : Nat → PowRegs → MulRegs → PowRegs × MulRegs
  | 0, p, q => (p, q)
  | fuel + 1, p, q => if p.b = 0#64 then (p, q) else powIterations fuel (powIterate p) (powIterateMul p)

/-- A whole run of POW (R137), as MRE starts it: the POW and MUL registers it leaves, MUL holding q before. Log 9. -/
def powRun (a b m : Word) (q : MulRegs) : PowRegs × MulRegs := powIterations (bitlen b) (powLoad a b m) q

/-- `MODPOW` (R135): its command step (R75). The block steps are `blockModpow`. -/
def execModpow (s : State) : Host.Outcome State Fault Refusal := .next (commandOf .modpow s)

/-- One level-B step of `MODPOW` (R137): load, iterate, or `Complete`. -/
def blockModpow (s : State) : State :=
  if !s.loaded then { s with pow := powLoad (operandA s) (operandB s) (operandM s), loaded := true }
  else if s.pow.b ≠ 0#64 then { s with pow := powIterate s.pow, mul := powIterateMul s.pow }
  else complete s.pow.r s

end Sys2Proof.Machine
end

