-- ==== Sys2Proof/Machine/Isprime.lean ====
section
/-! DEFINITION. `ISPRIME` and the unit MRE, the Miller-Rabin decision engine (spec/44_isprime.md). A verdict is a Bool,
`true` for 1 (prime) and `false` for 0 (composite). -/

namespace Sys2Proof.Machine

/-- `zext_64` of a verdict (R150): 1 = prime, 0 = composite. -/
def verdictWord (v : Bool) : Word := if v then 1#64 else 0#64

/-- Step 1 of R151, the halving loop on d and r. The fuel bounds the halvings; `bitlen(d)` is enough for every
d != 0 (R153). -/
def halve : Nat → Word → Nat → Word × Nat
  | 0, d, r => (d, r)
  | fuel + 1, d, r => if lowBit d then (d, r) else halve fuel (shr1 d) (r + 1)

/-- The halving loop from d and r until d is odd. -/
def halveWhile (d : Word) (r : Nat) : Word × Nat := halve (bitlen d) d r

/-- Step 2d of R151: up to k squarings of x modulo n, true as soon as one gives n - 1 (the test is on the new x only,
R156). -/
def reachesMinusOne : Nat → Word → Word → Bool
  | 0, _, _ => false
  | k + 1, x, n =>
    let x1 := MULM x x n
    if x1 = sub64 n 1#64 then true else reachesMinusOne k x1 n

/-- Steps 2b to 2e of R151 for one base: true when the base does not witness compositeness. -/
def basePasses (a d : Word) (r : Nat) (n : Word) : Bool :=
  let x := POWM a d n
  if x = 1#64 ∨ x = sub64 n 1#64 then true else reachesMinusOne (r - 1) x n

/-- Step 2 of R151, the base loop over the bases not yet tested: the early exit of R154, the next base, or verdict 0. -/
def baseLoop : List Word → Word → Nat → Word → Bool
  | [], _, _, _ => true
  | a :: rest, d, r, n =>
    if a > sub64 n 2#64 then true
    else if basePasses a d r n then baseLoop rest d r n
    else false

/-- `MRV(n)` (R151). The first three tests are made in the order written. -/
def MRV (n : Word) : Bool :=
  if n < 2#64 then false
  else if n = 2#64 ∨ n = 3#64 then true
  else if !lowBit n then false
  else
    let dr := halveWhile (sub64 n 1#64) 0
    baseLoop Config.baseTable.toList dr.1 dr.2 n

/-- `BASE[MRE.I]` (R34); beyond the table, which no rule reads (R62), a free value. Log 8. -/
def baseAt (i : BitVec 4) : Word :=
  if h : i.toNat < 12 then Config.baseTable[i.toNat] else Config.beyondTable i.toNat

/-- `MRE.BST[MRE.I] <- b` (R158). -/
def setBaseState (e : MreRegs) (b : BaseState) : MreRegs := { e with bst := e.bst.setIfInBounds e.i.toNat b }

/-- `Finish(v)`: the step `Complete` with `RESULT <- zext_64(v)` (R158). -/
def finish (v : Bool) (s : State) : State := complete (verdictWord v) s

/-- `step MRE.Load` (R158). -/
def mreLoad (s : State) : State :=
  { s with
    mre := { s.mre with n := operandM s, ph := .classify, bst := Vector.replicate 12 .untested }
    loaded := true }

/-- `step MRE.Classify` (R158). -/
def mreClassify (s : State) : State :=
  if s.mre.n < 2#64 then finish false s
  else if s.mre.n = 2#64 ∨ s.mre.n = 3#64 then finish true s
  else if !lowBit s.mre.n then finish false s
  else { s with mre := { s.mre with d := sub64 s.mre.n 1#64, r := 0#6, ph := .decomp } }

/-- `step MRE.Halve` (R158). At the end of its 6 bits, which no run reaches, `MRE.R + 1` wraps: DESIGN CHOICE, log 18. -/
def mreHalve (s : State) : State :=
  if !lowBit s.mre.d then { s with mre := { s.mre with d := shr1 s.mre.d, r := s.mre.r + 1#6 } }
  else { s with mre := { s.mre with i := 0#4, ph := .base } }

/-- `step MRE.Base` (R158), the run of POW inside it leaving its registers in POW and MUL (log 9). At the ends of their
widths, which no run reaches, `MRE.R - 1` and `MRE.I + 1` wrap: DESIGN CHOICE, log 18. -/
def mreBase (s : State) : State :=
  if s.mre.i = 12#4 then finish true s
  else if baseAt s.mre.i > sub64 s.mre.n 2#64 then finish true s
  else
    let x0 := POWM (baseAt s.mre.i) s.mre.d s.mre.n
    let left := powRun (baseAt s.mre.i) s.mre.d s.mre.n s.mul
    if x0 = 1#64 ∨ x0 = sub64 s.mre.n 1#64 then
      { s with
        pow := left.1
        mul := left.2
        mre := { setBaseState s.mre .probablePrime with x := x0, i := s.mre.i + 1#4 } }
    else
      { s with
        pow := left.1
        mul := left.2
        mre := { s.mre with x := x0, j := s.mre.r - 1#6, ph := .square } }

/-- `step MRE.Square` (R158), the run of MUL inside it leaving its registers in MUL (log 9). At the end of its 4 bits,
which no run reaches, `MRE.I + 1` wraps: DESIGN CHOICE, log 18. -/
def mreSquare (s : State) : State :=
  if s.mre.j = 0#6 then finish false { s with mre := setBaseState s.mre .composite }
  else
    let x1 := MULM s.mre.x s.mre.x s.mre.n
    let left := mulRun s.mre.x s.mre.x s.mre.n
    if x1 = sub64 s.mre.n 1#64 then
      { s with
        mul := left
        mre := { setBaseState s.mre .probablePrime with
          x := x1, j := s.mre.j - 1#6, i := s.mre.i + 1#4, ph := .base } }
    else { s with mul := left, mre := { s.mre with x := x1, j := s.mre.j - 1#6 } }

/-- `ISPRIME` (R150): its command step (R75). The block steps are `blockIsprime`. -/
def execIsprime (s : State) : Host.Outcome State Fault Refusal := .next (commandOf .isprime s)

/-- One level-B step of `ISPRIME` (R158): exactly one of its steps is enabled. With a code in `MRE.PH` that names no phase,
which `MRE.Load` and the steps never leave there, none would be. Log 11. -/
def blockIsprime (s : State) : State :=
  if !s.loaded then mreLoad s
  else
    match s.mre.ph with
    | .classify => mreClassify s
    | .decomp => mreHalve s
    | .base => mreBase s
    | .square => mreSquare s
    | .unnamed _ => s

end Sys2Proof.Machine
end

