-- ==== Sys2Proof/Machine/Modsub.lean ====
section
/-! DEFINITION. `MODSUB` and the unit SUB (spec/41_modsub.md). -/

namespace Sys2Proof.Machine

/-- `SUBM(a, b, m)` (R111). -/
def SUBM (a b m : Word) : Word :=
  let t := if a < b then sub64 (add64 a m) b else sub64 a b
  rem64 t m

/-- `MODSUB` (R110): its command step (R75). The completion is `blockModsub`. -/
def execModsub (s : State) : Host.Outcome State Fault Refusal := .next (commandOf .modsub s)

/-- `MODSUB` at level B (R116, R256): SUB is combinational, so the first block step is `Complete`. -/
def blockModsub (s : State) : State := complete (SUBM (operandA s) (operandB s) (operandM s)) s

end Sys2Proof.Machine
end

