-- ==== Sys2Proof/Machine/Dispatch.lean ====
section
/-! DEFINITION. One arm per command: what a write of its command word does (spec/30_encoding.md R75). -/

namespace Sys2Proof.Machine

def exec (i : Instr) (s : State) : Host.Outcome State Fault Refusal :=
  match i with
  | .modadd => Sys2Proof.Machine.execModadd s
  | .modsub => Sys2Proof.Machine.execModsub s
  | .modmul => Sys2Proof.Machine.execModmul s
  | .modpow => Sys2Proof.Machine.execModpow s
  | .isprime => Sys2Proof.Machine.execIsprime s

end Sys2Proof.Machine
end

