-- ==== Sys2Proof/Machine/Sequencer.lean ====
section
/-! DEFINITION. The block's sequencer: the unit the running command names takes level-B steps (spec/10_state.md R35),
when the open schedule gives it a turn (R41, spec/70_reset_and_hazards.md R255). -/

namespace Sys2Proof.Machine

/-- The function value of a command for operands a, b, m (R29, R12). -/
def commandValue (i : Instr) (a b m : Word) : Word :=
  match i with
  | .modadd => ADDM a b m
  | .modsub => SUBM a b m
  | .modmul => MULM a b m
  | .modpow => POWM a b m
  | .isprime => verdictWord (MRV m)

/-- One level-B step of the running command, the one `CMD` names (R25, R35). A word that is no command never stands in
`CMD` (R25); with one the block would have no step. Log 10. -/
def blockStep (s : State) : State :=
  match decodeWord s.cmd with
  | some .modadd => blockModadd s
  | some .modsub => blockModsub s
  | some .modmul => blockModmul s
  | some .modpow => blockModpow s
  | some .isprime => blockIsprime s
  | none => s

/-- Up to k level-B steps, none of them outside phase BUSY (R29: `require STATUS.BUSY == 1`; R210: quiescent). -/
def blockSteps : Nat → State → State
  | 0, s => s
  | k + 1, s => if s.status.busy then blockSteps k (blockStep s) else s

/-- The block's current turn, and the state without it: the first one already decided, else a fresh draw. Log 2. -/
def takeTurn (s : State) : Turn × State :=
  match s.turns with
  | t :: rest => (t, { s with turns := rest })
  | [] => (⟨Config.idleEdges s.turnCount, Config.extraSteps s.turnCount⟩, { s with turnCount := s.turnCount + 1 })

/-- The block's part of a clock edge (R41): in phase BUSY it either sits this edge out or makes its step. Log 2. -/
def blockTurn (s : State) : State :=
  if s.status.busy then
    let ts := takeTurn s
    if ts.1.idle = 0 then blockSteps (ts.1.extra + 1) ts.2
    else { ts.2 with turns := ⟨ts.1.idle - 1, ts.1.extra⟩ :: ts.2.turns }
  else s

end Sys2Proof.Machine
end

