-- ==== Sys2Proof/Machine/HostPort.lean ====
section
/-! DEFINITION. The host's side: `RegRead` and `RegWrite` (spec/20_memory.md R53, R54), the command step of any word
(spec/30_encoding.md R75), one rising clock edge (spec/10_state.md R41), and the host-script statements and
pseudo-instructions (spec/30_encoding.md R77, R78). -/

namespace Sys2Proof.Machine

/-- `CommandStep(w)`, the complete effect of `RegWrite(3, w)` (R75), for any 64-bit word. -/
def commandStep (w : Word) (s : State) : Host.Outcome State Fault Refusal :=
  match decodeWord w with
  | some i => exec i s
  | none => .next (reservedCommand s)

/-- `RegWrite(i, v)` (R54). -/
def regWrite (i : RegIndex) (v : Word) (s : State) : Host.Outcome State Fault Refusal :=
  if i = 3#3 then commandStep v s else .next (storeRegister i v s)

/-- The host transaction of one edge, if any (R40). -/
def hostTransaction (p : PortsIn) (s : State) : Host.Outcome State Fault Refusal :=
  if p.req then
    if p.we then regWrite p.idx p.wdata s else .next (readToLog p.idx s)
  else .next s

/-- Output `rdata` at an edge with these inputs: with `req = 1` and `we = 0`, the value `RegRead(idx)` returns, taken
from the state before the edge (R40). Otherwise the model says nothing of the port; so too at an edge with `rst = 1`, where
the transaction is lost (R240) and the spec gives no value: DESIGN CHOICE, log 20. -/
def rdataOut (p : PortsIn) (s : State) : Option Word :=
  if p.req && !p.we && !p.rst then some (readValue p.idx s) else none

/-- One rising clock edge (R41): the event `Reset` alone if `rst = 1`; else the host transaction on the state before
the edge, then at most one block step. -/
def clockEdge (p : PortsIn) (s : State) : Host.Outcome State Fault Refusal :=
  if p.rst then .next (resetEvent s)
  else
    match hostTransaction p s with
    | .next s1 => .next (blockTurn s1)
    | .fault r => .fault r
    | .refused r => .refused r

/-- No transaction at this edge. -/
def portsIdle : PortsIn := ⟨false, false, false, 0#3, 0#64⟩

/-- The edge of `RegWrite(i, v)` (R40). -/
def portsWrite (i : RegIndex) (v : Word) : PortsIn := ⟨false, true, true, i, v⟩

/-- The edge of `RegRead(i)` (R40). -/
def portsRead (i : RegIndex) : PortsIn := ⟨false, true, false, i, 0#64⟩

/-- The edge of `Reset` (R40). -/
def portsReset : PortsIn := ⟨true, false, false, 0#3, 0#64⟩

/-- One poll of `WAIT` (R78): `RD STATUS`; when `v[4:1] != 0` the value goes to the read log and the loop ends, else
the statement stays. The block may step at this edge as at any other. -/
def pollWait (rest : List HostStmt) (s : State) : State :=
  let v := readValue 4#3 s
  if v.extractLsb' 1 4 ≠ 0#4 then blockTurn { s with script := rest, readLog := s.readLog ++ [v] }
  else blockTurn s

/-- The host presents its next statement at one clock edge; with none left, an edge without a transaction. -/
def hostEdge (s : State) : Host.Outcome State Fault Refusal :=
  match s.script with
  | [] => clockEdge portsIdle s
  | .edge p :: rest => clockEdge p { s with script := rest }
  | .wait :: rest => .next (pollWait rest s)

/-- `WR <reg>, <value>` (R77). -/
def stmtWR (i : RegIndex) (v : Word) : HostStmt := .edge (portsWrite i v)

/-- `RD <reg>` (R77). -/
def stmtRD (i : RegIndex) : HostStmt := .edge (portsRead i)

/-- `RESET` (R77). -/
def stmtRESET : HostStmt := .edge portsReset

/-- `MODADD`, ..., `ISPRIME` without operands: `WR CMD, <opcode>` (R78). -/
def stmtCommand (i : Instr) : HostStmt := stmtWR 3#3 (encode i)

/-- The pseudo-instruction with three values for a modular command, with one value (n, in the place of m) for
`ISPRIME` (R78). -/
def pseudoInstruction (i : Instr) (a b m : Word) : List HostStmt :=
  match i with
  | .isprime => [stmtWR 2#3 m, stmtCommand .isprime, .wait, stmtRD 5#3]
  | _ => [stmtWR 0#3 a, stmtWR 1#3 b, stmtWR 2#3 m, stmtCommand i, .wait, stmtRD 5#3]

/-- The host transaction of a statement as R79 encodes it; `RESET`, an edge without a request, and `WAIT` (which is a
loop) have no word of their own. -/
def transactionOf : HostStmt → Option Transaction
  | .edge p => if p.req && !p.rst then some ⟨p.we, p.idx, p.wdata⟩ else none
  | .wait => none

end Sys2Proof.Machine
end

