-- ==== Sys2Proof/Machine/Step.lean ====
section
/-! DEFINITION. One step of the machine: one rising clock edge (spec/10_state.md R41), with the inputs the host's script
says. -/

namespace Sys2Proof.Machine

/-- One rising clock edge (R41). -/
def step (s : State) : Host.Outcome State Fault Refusal := hostEdge s

/-- The block fetches nothing (R24): a command reaches it as a host write to `CMD`. This puts that write (R78) in front
of the host's script, so the very next step presents it. Log 1. -/
def State.withFetchWord (s : State) (nbits w : Nat) : State :=
  { s with script := stmtWR 3#3 (BitVec.ofNat 64 (w % 2 ^ nbits)) :: s.script }

end Sys2Proof.Machine
end

