-- ==== Sys2Proof/Safety.lean ====
section
/-! DEFINITION. What a safe run of the block is, in the terms the statements use: no fault bit set
(spec/60_exceptions.md R210), and the invariant that ties the registers of a running command to the value its function
has (spec/10_state.md R27, R29, R35; spec/44_isprime.md R160). -/

namespace Sys2Proof.Machine

/-- n steps of the machine lead from s to t. -/
def runsTo (n : Nat) (s t : State) : Prop := Host.Core.run Sys2Proof.core n s = .next t

/-- No fault is recorded (R210: "no fault bit set at the end"). -/
def NoFault (s : State) : Prop := anyFault s.status = false

/-- Idle: IDLE-EMPTY or IDLE-DONE (R27). -/
def Idle (s : State) : Prop := s.status.busy = false ∧ anyFault s.status = false

/-- An edge at which the host neither resets nor writes `CMD`; every other transaction is allowed. -/
def QuietPorts (p : PortsIn) : Prop := p.rst = false ∧ ¬(p.req = true ∧ p.we = true ∧ p.idx = 3#3)

/-- The statements still to come neither reset the block nor write `CMD`. -/
def QuietScript (l : List HostStmt) : Prop := ∀ p : PortsIn, HostStmt.edge p ∈ l → QuietPorts p

/-- What a host can see of the block and has seen (R80, R37): the registers as it reads them, its log and its script. -/
def sameView (s t : State) : Prop :=
  s.opa = t.opa ∧ s.opb = t.opb ∧ s.opm = t.opm ∧ s.cmd = t.cmd ∧ s.status = t.status ∧
    (resultHidden s = false → s.result = t.result) ∧ s.readLog = t.readLog ∧ s.script = t.script

/-- Two states differ at most in the hidden registers of R30 to R33 and the sequencer's place. -/
def sameButHidden (s t : State) : Prop :=
  t = { s with la := t.la, lb := t.lb, lm := t.lm, mul := t.mul, pow := t.pow, mre := t.mre, loaded := t.loaded }

/-- The base of table index k (R34). -/
def tableBase (k : Fin 12) : Word := Config.baseTable[k]

/-- Base k is eligible for n: it does not exceed n - 2 (R154). -/
def eligible (n : Word) (k : Fin 12) : Prop := (tableBase k).toNat + 2 ≤ n.toNat

/-- Base a witnesses the compositeness of n, whose decomposition is d and r: neither `a^d mod n` is 1 or n - 1, nor does
any of the next r - 1 squarings give n - 1 (R155, R156; glossary of spec/00_scope.md). Plain number theory. -/
def witnesses (a d r n : Nat) : Prop :=
  a ^ d % n ≠ 1 ∧ a ^ d % n ≠ n - 1 ∧ ∀ k, 1 ≤ k → k ≤ r - 1 → a ^ (d * 2 ^ k) % n ≠ n - 1

/-- How many bases are eligible for n (R154, R165). -/
def eligibleCount (n : Nat) : Nat := ((List.finRange 12).filter fun k => (tableBase k).toNat + 2 ≤ n).length

/-- The verdict the sequencer will reach from its registers (R158 against R151); from a code that names no phase it reaches
none. -/
def mreVerdict (e : MreRegs) : Bool :=
  match e.ph with
  | .classify => MRV e.n
  | .decomp => baseLoop Config.baseTable.toList (halveWhile e.d e.r.toNat).1 (halveWhile e.d e.r.toNat).2 e.n
  | .base => baseLoop (Config.baseTable.toList.drop e.i.toNat) e.d e.r.toNat e.n
  | .square =>
    if reachesMinusOne e.j.toNat e.x e.n then
      baseLoop (Config.baseTable.toList.drop (e.i.toNat + 1)) e.d e.r.toNat e.n
    else false
  | .unnamed _ => false

/-- The value the running command will deliver from the registers as they stand: level B's debt to level A (R35). -/
def valueOwed (i : Instr) (s : State) : Word :=
  match i with
  | .modadd => ADDM s.la s.lb s.lm
  | .modsub => SUBM s.la s.lb s.lm
  | .modmul => if s.loaded then mulWhile s.mul.a s.mul.b s.mul.r s.mul.m else MULM s.la s.lb s.lm
  | .modpow => if s.loaded then powWhile s.pow.a s.pow.b s.pow.r s.pow.m else POWM s.la s.lb s.lm
  | .isprime => verdictWord (if s.loaded then mreVerdict s.mre else MRV s.lm)

/-- The entries below k are `PROBABLE_PRIME`, those from k on `UNTESTED` (R160). -/
def bstProgress (e : MreRegs) (k : Nat) : Prop :=
  ∀ b : Fin 12, e.bst[b] = if b.val < k then BaseState.probablePrime else BaseState.untested

/-- MRE's decomposition registers: `n - 1 = d * 2^r` for an odd n of at least 5 (R153, R161). -/
def mreSplit (e : MreRegs) : Prop :=
  5 ≤ e.n.toNat ∧ e.n.toNat % 2 = 1 ∧ e.d.toNat * 2 ^ e.r.toNat + 1 = e.n.toNat

/-- The bases below k are eligible (R154). -/
def basesEligible (e : MreRegs) (k : Nat) : Prop := ∀ b : Fin 12, b.val < k → eligible e.n b

/-- What holds of MRE's registers in each phase of its sequencer (R153, R154, R156, R160); a code that names no phase never
stands there while the engine runs. -/
def mreReady (e : MreRegs) : Prop :=
  match e.ph with
  | .classify => bstProgress e 0
  | .decomp => bstProgress e 0 ∧ mreSplit e
  | .base =>
    bstProgress e e.i.toNat ∧ mreSplit e ∧ e.d.toNat % 2 = 1 ∧ 1 ≤ e.r.toNat ∧ e.i.toNat ≤ 12 ∧
      basesEligible e e.i.toNat
  | .square =>
    bstProgress e e.i.toNat ∧ mreSplit e ∧ e.d.toNat % 2 = 1 ∧ e.j.toNat < e.r.toNat ∧ e.i.toNat < 12 ∧
      basesEligible e (e.i.toNat + 1)
  | .unnamed _ => False

/-- The working registers of a running command fit its operands: a modular command has a modulus (R201), a loaded unit
works on the latched one, with its loop variables reduced (R123 I1, R138 J1). -/
def unitsReady (i : Instr) (s : State) : Prop :=
  (needsModulus i = true → s.lm ≠ 0#64) ∧
    (s.loaded = true →
      match i with
      | .modadd => True
      | .modsub => True
      | .modmul => s.mul.m = s.lm ∧ s.mul.a < s.lm ∧ s.mul.r < s.lm
      | .modpow => s.pow.m = s.lm ∧ s.pow.a < s.lm ∧ (1 < s.lm.toNat → s.pow.r < s.lm)
      | .isprime => s.mre.n = s.lm ∧ mreReady s.mre)

/-- What `MRE.BST` records when a verdict has been given (R160). For an input decided by `MRE.Classify` (R152) every
entry is still `UNTESTED` (spec/95_test_vectors.md section 5.4; log 13). -/
def bstRecords (e : MreRegs) (verdict : Bool) : Prop :=
  if e.n.toNat < 5 ∨ e.n.toNat % 2 = 0 then bstProgress e 0
  else if verdict then ∃ k : Nat, bstProgress e k ∧ ∀ b : Fin 12, b.val < k ↔ eligible e.n b
  else
    ∃ k : Fin 12, eligible e.n k ∧ e.bst[k] = BaseState.composite ∧
      (∀ b : Fin 12, b < k → e.bst[b] = BaseState.probablePrime) ∧
      ∀ b : Fin 12, k < b → e.bst[b] = BaseState.untested

/-- The phase is one of the four of R27. -/
def PhaseLegal (s : State) : Prop := (phaseOf s.status).isSome = true

/-- While a command runs, its registers fit it and owe exactly its function value (R29, R35). -/
def RunningOwes (s : State) : Prop :=
  s.status.busy = true →
    ∃ i, decodeWord s.cmd = some i ∧ unitsReady i s ∧ valueOwed i s = commandValue i s.la s.lb s.lm

/-- When `DONE = 1`, `RESULT` is the function value of the last accepted command for its latched operands (R26, R29),
and `MRE.BST` records an `ISPRIME` (R160). -/
def DoneDelivers (s : State) : Prop :=
  s.status.done = true →
    ∃ i, decodeWord s.cmd = some i ∧ s.result = commandValue i s.la s.lb s.lm ∧
      (i = .isprime → s.mre.n = s.lm ∧ bstRecords s.mre (MRV s.lm))

/-- `CMD` holds a command word 0 to 4 (R25). -/
def CmdLegal (s : State) : Prop := (decodeWord s.cmd).isSome = true

/-- The invariant of the machine. -/
def Inv (s : State) : Prop := PhaseLegal s ∧ CmdLegal s ∧ RunningOwes s ∧ DoneDelivers s

end Sys2Proof.Machine
end

