-- ==== Sys2Proof/Certificates/Slice0/Obligations.lean ====
section
/-! DEFINITION. The statements about the block, each from a numbered rule of spec/ or from the sections its entry in
OBLIGATIONS.json names. -/

open Sys2Proof Sys2Proof.Machine

/-! ## Reset -/

/-- R240, R241, R206 (last sentence), R242: an edge with `rst = 1` gives a next state from any state and under any other
port values, with every host-visible register 0, phase IDLE-EMPTY, the outputs 0, a transaction at the same edge lost,
and every hidden register a free draw (which draw is the model's numbering, log 4). The host's script and log stay. -/
def Obligations.ResetEdgeClearsTheBlock : Prop :=
  ∀ (p : PortsIn) (s : State), p.rst = true →
    ∃ t, clockEdge p s = .next t ∧
      t.opa = 0#64 ∧ t.opb = 0#64 ∧ t.opm = 0#64 ∧ t.cmd = 0#64 ∧ statusWord t.status = 0#64 ∧ t.result = 0#64 ∧
      phaseOf t.status = some .idleEmpty ∧ busyOut t = false ∧ doneOut t = false ∧ faultOut t = false ∧
      readValue 5#3 t = 0#64 ∧
      t.la = Config.unspecified64 s.freeCount ∧ t.lb = Config.unspecified64 (s.freeCount + 1) ∧
      t.lm = Config.unspecified64 (s.freeCount + 2) ∧
      t.mul = ⟨Config.unspecified64 (s.freeCount + 3), Config.unspecified64 (s.freeCount + 4),
        Config.unspecified64 (s.freeCount + 5), Config.unspecified64 (s.freeCount + 6)⟩ ∧
      t.pow = ⟨Config.unspecified64 (s.freeCount + 7), Config.unspecified64 (s.freeCount + 8),
        Config.unspecified64 (s.freeCount + 9), Config.unspecified64 (s.freeCount + 10)⟩ ∧
      t.mre = freeMre (s.freeCount + 11) ∧ t.script = s.script ∧ t.readLog = s.readLog

/-- R241: the state a model starts from has every host-visible register 0 and all flags and outputs 0. Its hidden
registers are the model's choice (log 3), of which this says nothing. -/
def Obligations.ResetStateShowsZeros : Prop :=
  State.reset.opa = 0#64 ∧ State.reset.opb = 0#64 ∧ State.reset.opm = 0#64 ∧ State.reset.cmd = 0#64 ∧
    statusWord State.reset.status = 0#64 ∧ State.reset.result = 0#64 ∧ readValue 5#3 State.reset = 0#64 ∧
    busyOut State.reset = false ∧ doneOut State.reset = false ∧ faultOut State.reset = false ∧
    phaseOf State.reset.status = some .idleEmpty

/-- R242: after `Reset` nothing of what happened before is left: two states that agree on what is no part of the block
(script, log, schedule and the model's counters) are the same state after it. -/
def Obligations.ResetForgetsThePast : Prop :=
  ∀ (p : PortsIn) (s t : State), p.rst = true → s.script = t.script → s.readLog = t.readLog → s.turns = t.turns →
    s.turnCount = t.turnCount → s.freeCount = t.freeCount → clockEdge p s = clockEdge p t

/-! ## Encoding -/

/-- R72: the five command words, written out, decode to their commands. -/
def Obligations.FiveWordsDecode : Prop :=
  decodeWord 0x0000000000000000#64 = some .modadd ∧ decodeWord 0x0000000000000001#64 = some .modsub ∧
    decodeWord 0x0000000000000002#64 = some .modmul ∧ decodeWord 0x0000000000000003#64 = some .modpow ∧
    decodeWord 0x0000000000000004#64 = some .isprime

/-- R71: exactly the words 0 to 4 are legal; every other word is reserved. -/
def Obligations.LegalWordsAreZeroToFour : Prop :=
  ∀ w : Word,
    ((decodeWord w).isSome = true ↔ w.extractLsb' 3 61 = 0#61 ∧ (w.extractLsb' 0 3).toNat ≤ 4) ∧
    ((decodeWord w).isSome = true ↔ w.toNat = 0 ∨ w.toNat = 1 ∨ w.toNat = 2 ∨ w.toNat = 3 ∨ w.toNat = 4)

/-- R70 to R72: decoding and encoding are inverse, for every command and every 64-bit word. -/
def Obligations.DecodingInvertsEncoding : Prop :=
  ∀ (w : Word) (i : Instr), decodeWord w = some i ↔ w = encode i

/-- R79: the 68-bit word of `WR` is 8 plus the index, then the value; of `RD` the index, then zeros; a word has at most
one transaction, and the transaction's word is that word; `RESET` has none. -/
def Obligations.TransactionWordsRoundTrip : Prop :=
  (∀ (i : RegIndex) (v : Word), transactionOf (stmtWR i v) = some ⟨true, i, v⟩ ∧
    (transactionWord ⟨true, i, v⟩).toNat = (8 + i.toNat) * 2 ^ 64 + v.toNat ∧
    decodeTransaction (transactionWord ⟨true, i, v⟩) = some ⟨true, i, v⟩) ∧
  (∀ i : RegIndex, transactionOf (stmtRD i) = some ⟨false, i, 0#64⟩ ∧
    (transactionWord ⟨false, i, 0#64⟩).toNat = i.toNat * 2 ^ 64 ∧
    decodeTransaction (transactionWord ⟨false, i, 0#64⟩) = some ⟨false, i, 0#64⟩) ∧
  (∀ (x : BitVec 68) (t : Transaction), decodeTransaction x = some t → transactionWord t = x) ∧
  transactionOf stmtRESET = none

/-! ## The command step and the host's transactions -/

/-- A step runs the decoded command: when the host's next statement is a write of w to `CMD`, the step is `exec` of the
command w decodes to, then the block's part of the same edge (R41); a reserved word is R75's. -/
def Obligations.StepRunsTheDecodedCommand : Prop :=
  ∀ (s : State) (rest : List HostStmt) (w : Word), s.script = .edge (portsWrite 3#3 w) :: rest →
    (∀ i, decodeWord w = some i →
      step s =
        match exec i { s with script := rest } with
        | .next t => .next (blockTurn t)
        | .fault r => .fault r
        | .refused r => .refused r) ∧
    (decodeWord w = none → step s = .next (blockTurn (reservedCommand { s with script := rest }))) ∧
    (s.withFetchWord 64 w.toNat).script = .edge (portsWrite 3#3 w) :: s.script

/-- R75: the complete effect of `RegWrite(3, w)`, in the order of its tests. That acceptance also sets the sequencer's
place back (`loaded := false`) is the model's inference, not R75's words (DEDUCED, log 5). -/
def Obligations.CommandStepIsTheSpecs : Prop :=
  ∀ (w : Word) (s : State), ∃ t, commandStep w s = .next t ∧
    (anyFault s.status = true → t = s) ∧
    (anyFault s.status = false → s.status.busy = true →
      t = { s with status := { s.status with fOverrun := true, busy := false, done := false } }) ∧
    (anyFault s.status = false → s.status.busy = false →
      (w.extractLsb' 3 61 ≠ 0#61 ∨ 4 < (w.extractLsb' 0 3).toNat) →
      t = { s with status := { s.status with fIllegal := true, busy := false, done := false } }) ∧
    (anyFault s.status = false → s.status.busy = false → w.extractLsb' 3 61 = 0#61 →
      (w.extractLsb' 0 3).toNat ≤ 3 → s.opm = 0#64 →
      t = { s with status := { s.status with fMzero := true, busy := false, done := false } }) ∧
    (anyFault s.status = false → s.status.busy = false → w.extractLsb' 3 61 = 0#61 →
      (w.extractLsb' 0 3).toNat ≤ 4 → ((w.extractLsb' 0 3).toNat ≤ 3 → s.opm ≠ 0#64) →
      t = { s with
        cmd := w, la := s.opa, lb := s.opb, lm := s.opm
        status := { s.status with done := false, busy := true }, loaded := false })

/-- R100, R110, R120, R135, R30: when the block is idle and `OPM != 0`, each modular command is accepted: its word in
`CMD`, the operands latched, BUSY set and DONE cleared, all else unchanged. -/
def Obligations.ModularCommandsAreAccepted : Prop :=
  ∀ s : State, Idle s → s.opm ≠ 0#64 →
    exec .modadd s = .next { s with
      cmd := 0#64, la := s.opa, lb := s.opb, lm := s.opm, loaded := false
      status := { s.status with done := false, busy := true } } ∧
    exec .modsub s = .next { s with
      cmd := 1#64, la := s.opa, lb := s.opb, lm := s.opm, loaded := false
      status := { s.status with done := false, busy := true } } ∧
    exec .modmul s = .next { s with
      cmd := 2#64, la := s.opa, lb := s.opb, lm := s.opm, loaded := false
      status := { s.status with done := false, busy := true } } ∧
    exec .modpow s = .next { s with
      cmd := 3#64, la := s.opa, lb := s.opb, lm := s.opm, loaded := false
      status := { s.status with done := false, busy := true } }

/-- R150, R30, R75: when the block is idle, `ISPRIME` is accepted with any `OPM`, 0 included. -/
def Obligations.IsprimeIsAccepted : Prop :=
  ∀ s : State, Idle s →
    exec .isprime s = .next { s with
      cmd := 4#64, la := s.opa, lb := s.opb, lm := s.opm, loaded := false
      status := { s.status with done := false, busy := true } }

/-- R201, R203, R210, R206: where a command traps. A modular command with `OPM == 0` while idle takes `ModulusZero`;
any command while busy takes `Overrun`, whatever `OPM` holds; in phase FAULTED a command has no effect. Fault entry
writes `STATUS` and nothing else. -/
def Obligations.CommandsTrapAsTheSpecSays : Prop :=
  (∀ (i : Instr) (s : State), i ≠ .isprime → Idle s → s.opm = 0#64 →
    exec i s = .next { s with status := { s.status with fMzero := true, busy := false, done := false } }) ∧
  (∀ (i : Instr) (s : State), anyFault s.status = false → s.status.busy = true →
    exec i s = .next { s with status := { s.status with fOverrun := true, busy := false, done := false } }) ∧
  (∀ (i : Instr) (s : State), anyFault s.status = true → exec i s = .next s)

/-- The frame of the five commands (R75, R22, R21): their command step leaves the operand registers, the stored
`RESULT`, the working registers, the host and the schedule alone; unless it accepts, also `CMD` and the latches; and if
it accepts, the fault bits. -/
def Obligations.CommandsLeaveTheRestAlone : Prop :=
  ∀ (i : Instr) (s t : State), exec i s = .next t →
    t = { s with
      cmd := t.cmd, la := t.la, lb := t.lb, lm := t.lm, loaded := t.loaded, status := t.status } ∧
    (t.status.busy = false →
      t.cmd = s.cmd ∧ t.la = s.la ∧ t.lb = s.lb ∧ t.lm = s.lm ∧ t.loaded = s.loaded) ∧
    (t.status.busy = true → s.status.busy = false →
      t.status.fMzero = s.status.fMzero ∧ t.status.fIllegal = s.status.fIllegal ∧
        t.status.fOverrun = s.status.fOverrun)

/-- R53 with R22, R23, R26: what each index reads, and that a read changes nothing but the host's log. That
`unspecified64` is the draw numbered `freeCount`, and that such a read advances this counter of the model's own, is the
model's form of a free value (DESIGN CHOICE, log 6). -/
def Obligations.RegReadReturnsTheSpecsValue : Prop :=
  ∀ (i : RegIndex) (s : State),
    hostTransaction (portsRead i) s = .next { s with
      readLog := s.readLog ++ [readValue i s]
      freeCount := if i = 5#3 ∧ resultHidden s = true then s.freeCount + 1 else s.freeCount } ∧
    rdataOut (portsRead i) s = some (readValue i s) ∧
    (i = 0#3 → readValue i s = s.opa) ∧ (i = 1#3 → readValue i s = s.opb) ∧ (i = 2#3 → readValue i s = s.opm) ∧
    (i = 3#3 → readValue i s = s.cmd) ∧
    (i = 4#3 → (readValue i s).toNat = s.status.busy.toNat + 2 * s.status.done.toNat + 4 * s.status.fMzero.toNat +
      8 * s.status.fIllegal.toNat + 16 * s.status.fOverrun.toNat) ∧
    (i = 5#3 → s.status.busy = true → readValue i s = Config.unspecified64 s.freeCount) ∧
    (i = 5#3 → anyFault s.status = true → readValue i s = Config.unspecified64 s.freeCount) ∧
    (i = 5#3 → s.status.busy = false → anyFault s.status = false → readValue i s = s.result) ∧
    (i = 6#3 ∨ i = 7#3 → readValue i s = 0#64)

/-- R54 with R21, R22, R23, R26: writes store to 0, 1, 2, are the command step at 3, and have no effect at 4 to 7, in
every phase; the command step answers a next state too. -/
def Obligations.RegWriteStoresOrIsIgnored : Prop :=
  ∀ (v : Word) (s : State),
    regWrite 0#3 v s = .next { s with opa := v } ∧ regWrite 1#3 v s = .next { s with opb := v } ∧
      regWrite 2#3 v s = .next { s with opm := v } ∧ regWrite 3#3 v s = commandStep v s ∧
      (∃ t, commandStep v s = .next t) ∧
      regWrite 4#3 v s = .next s ∧ regWrite 5#3 v s = .next s ∧ regWrite 6#3 v s = .next s ∧
      regWrite 7#3 v s = .next s

/-- R41, R251: a read of `RESULT` at an edge sees the state before the edge: while busy the value logged is a free draw,
also when the block completes at that very edge. -/
def Obligations.ReadSeesTheStateBeforeTheEdge : Prop :=
  ∀ s t : State, s.status.busy = true → clockEdge (portsRead 5#3) s = .next t →
    t.readLog = s.readLog ++ [Config.unspecified64 s.freeCount] ∧ t.freeCount = s.freeCount + 1

/-- R78: one poll of `WAIT`. With `DONE` or a fault bit set the loop ends and the value read is logged; else the
statement stays and nothing is logged. -/
def Obligations.WaitPollsStatus : Prop :=
  ∀ (s t : State) (rest : List HostStmt), s.script = .wait :: rest → step s = .next t →
    (s.status.done = true ∨ anyFault s.status = true →
      t.script = rest ∧ t.readLog = s.readLog ++ [statusWord s.status]) ∧
    (s.status.done = false → anyFault s.status = false → t.script = s.script ∧ t.readLog = s.readLog)

/-! ## Flags, phases, faults -/

/-- R27: only the four phases occur: right after reset, and after every step from a state in one of them; in each of
them BUSY and DONE are not both 1, at most one fault bit is 1, and with a fault bit both are 0. -/
def Obligations.OnlyTheFourPhasesOccur : Prop :=
  PhaseLegal State.reset ∧
  (∀ s t : State, PhaseLegal s → step s = .next t → PhaseLegal t) ∧
  (∀ s : State, PhaseLegal s →
    ¬(s.status.busy = true ∧ s.status.done = true) ∧ faultBits s.status ≤ 1 ∧
      (anyFault s.status = true → s.status.busy = false ∧ s.status.done = false))

/-- R211: no step but `Reset` clears a fault bit; once one is set no further one is; `Reset` clears them all. -/
def Obligations.FaultBitsAreSticky : Prop :=
  ∀ s t : State, step s = .next t →
    ((∀ p rest, s.script = .edge p :: rest → p.rst = false) →
      (s.status.fMzero = true → t.status.fMzero = true) ∧ (s.status.fIllegal = true → t.status.fIllegal = true) ∧
        (s.status.fOverrun = true → t.status.fOverrun = true) ∧
        (anyFault s.status = true → faultBits t.status = faultBits s.status)) ∧
    (∀ p rest, s.script = .edge p :: rest → p.rst = true → anyFault t.status = false)

/-- R210: in phase FAULTED the block is quiescent. At an edge without reset only operand writes store, and a read only
goes to the host's log (log 6 for the count of free draws). -/
def Obligations.FaultedBlockIsQuiescent : Prop :=
  ∀ (p : PortsIn) (s t : State), phaseOf s.status = some .faulted → p.rst = false → clockEdge p s = .next t →
    t = { s with opa := t.opa, opb := t.opb, opm := t.opm, readLog := t.readLog, freeCount := t.freeCount } ∧
      t.opa = (if p.req = true ∧ p.we = true ∧ p.idx = 0#3 then p.wdata else s.opa) ∧
      t.opb = (if p.req = true ∧ p.we = true ∧ p.idx = 1#3 then p.wdata else s.opb) ∧
      t.opm = (if p.req = true ∧ p.we = true ∧ p.idx = 2#3 then p.wdata else s.opm) ∧
      t.readLog = (if p.req = true ∧ p.we = false then s.readLog ++ [readValue p.idx s] else s.readLog)

/-- R200, R204: at an edge without reset a fault appears only by a write to `CMD`, and then the cause is one of the
three: `Overrun` only if a command was running, `IllegalCommand` only for a reserved word while idle, `ModulusZero` only
for a modular word while idle with `OPM == 0`. -/
def Obligations.OnlyCommandWritesFault : Prop :=
  ∀ (p : PortsIn) (s t : State), p.rst = false → clockEdge p s = .next t → anyFault s.status = false →
    anyFault t.status = true →
    p.req = true ∧ p.we = true ∧ p.idx = 3#3 ∧
      (t.status.fOverrun = true → s.status.busy = true) ∧
      (t.status.fIllegal = true → s.status.busy = false ∧ decodeWord p.wdata = none) ∧
      (t.status.fMzero = true → s.status.busy = false ∧ s.opm = 0#64 ∧
        ∃ i, decodeWord p.wdata = some i ∧ i ≠ .isprime)

/-! ## The block's steps -/

/-- R29, R21, R30: no block step writes the operand registers, `CMD`, the latches or a fault bit, nor anything of the
host; and while the command is still running none has written `RESULT` or `STATUS` (R22, R35: only completion does). -/
def Obligations.BlockStepsLeaveTheHostSideAlone : Prop :=
  (∀ (k : Nat) (s : State),
    (blockSteps k s).status.busy = true →
      (blockSteps k s).result = s.result ∧ (blockSteps k s).status = s.status) ∧
  ∀ (k : Nat) (s : State),
    blockSteps k s = { s with
      status := { s.status with busy := (blockSteps k s).status.busy, done := (blockSteps k s).status.done }
      result := (blockSteps k s).result
      mul := (blockSteps k s).mul
      pow := (blockSteps k s).pow
      mre := (blockSteps k s).mre
      loaded := (blockSteps k s).loaded }

/-- R21, R252, R30: a write to an operand register while a command runs does not reach it: the block's steps and the
write commute, whatever their order; what was written is what the next acceptance latches. -/
def Obligations.OperandWritesDoNotDisturb : Prop :=
  ∀ (i : RegIndex) (v : Word) (s : State), i.toNat < 3 →
    (∀ k, blockSteps k (storeRegister i v s) = storeRegister i v (blockSteps k s)) ∧
    blockTurn (storeRegister i v s) = storeRegister i v (blockTurn s) ∧
    ∀ w, (accept w (storeRegister 0#3 v s)).la = v ∧ (accept w (storeRegister 1#3 v s)).lb = v ∧
      (accept w (storeRegister 2#3 v s)).lm = v

/-- R22, R58 (c): once `DONE = 1` with no fault, an edge without reset and without a `CMD` write leaves `RESULT` and
`STATUS` as they are, and a read of `RESULT` logs the value. -/
def Obligations.CompletedResultStays : Prop :=
  ∀ (p : PortsIn) (s t : State), phaseOf s.status = some .idleDone → QuietPorts p → clockEdge p s = .next t →
    t.result = s.result ∧ t.status = s.status ∧ t.cmd = s.cmd ∧
      (p.req = true → p.we = false → p.idx = 5#3 → t.readLog = s.readLog ++ [s.result])

/-- R253: after the edge that accepts a command, `STATUS` says busy and not done, or done for that very command. -/
def Obligations.DoneIsNeverStale : Prop :=
  ∀ (p : PortsIn) (s t : State) (i : Instr), Idle s → p.rst = false → p.req = true → p.we = true → p.idx = 3#3 →
    decodeWord p.wdata = some i → (i ≠ .isprime → s.opm ≠ 0#64) → clockEdge p s = .next t →
    t.cmd = p.wdata ∧
      ((t.status.busy = true ∧ t.status.done = false) ∨
        (t.status.busy = false ∧ t.status.done = true ∧ t.result = commandValue i s.opa s.opb s.opm))

/-- R106, R116, R256: a running `MODADD` or `MODSUB` completes in one block step, with the function value of the latched
operands in `RESULT` (R29) and nothing else written. -/
def Obligations.AddAndSubCompleteInOneStep : Prop :=
  ∀ s : State, s.status.busy = true →
    (s.cmd = 0#64 → blockStep s =
      { s with result := ADDM s.la s.lb s.lm, status := { s.status with busy := false, done := true } }) ∧
    (s.cmd = 1#64 → blockStep s =
      { s with result := SUBM s.la s.lb s.lm, status := { s.status with busy := false, done := true } })

/-- R122: from its acceptance `MODMUL` takes exactly `bitlen(LB) + 2` level-B steps, the last of which writes
`MULM(LA, LB, LM)`; POW and MRE registers are not touched. (The count is not exposed to the host, R256.) -/
def Obligations.MulTakesBitlenPlusTwoSteps : Prop :=
  ∀ s : State, s.status.busy = true → s.cmd = 2#64 → s.loaded = false → s.lm ≠ 0#64 →
    (∀ k, k < bitlen s.lb + 2 → (blockSteps k s).status.busy = true) ∧
    (blockSteps (bitlen s.lb + 2) s).status.busy = false ∧ (blockSteps (bitlen s.lb + 2) s).status.done = true ∧
    (blockSteps (bitlen s.lb + 2) s).result = MULM s.la s.lb s.lm ∧
    (blockSteps (bitlen s.lb + 2) s).pow = s.pow ∧ (blockSteps (bitlen s.lb + 2) s).mre = s.mre

/-- R137: from its acceptance `MODPOW` takes exactly `bitlen(LB) + 2` level-B steps, the last of which writes
`POWM(LA, LB, LM)`; MRE registers are not touched. (The count is not exposed to the host, R256.) -/
def Obligations.PowTakesBitlenPlusTwoSteps : Prop :=
  ∀ s : State, s.status.busy = true → s.cmd = 3#64 → s.loaded = false → s.lm ≠ 0#64 →
    (∀ k, k < bitlen s.lb + 2 → (blockSteps k s).status.busy = true) ∧
    (blockSteps (bitlen s.lb + 2) s).status.busy = false ∧ (blockSteps (bitlen s.lb + 2) s).status.done = true ∧
    (blockSteps (bitlen s.lb + 2) s).result = POWM s.la s.lb s.lm ∧
    (blockSteps (bitlen s.lb + 2) s).mre = s.mre

/-- R159, R164: from its acceptance `ISPRIME` reaches `Finish(v)` with `v = MRV(LM)`: in 2 level-B steps for a trivial
input, else within `13 * r + 5`, hence within 824. (The count is not exposed to the host, R256.) -/
def Obligations.IsprimeReachesItsVerdict : Prop :=
  ∀ s : State, s.status.busy = true → s.cmd = 4#64 → s.loaded = false →
    (s.lm.toNat < 5 ∨ s.lm.toNat % 2 = 0 →
      (blockSteps 2 s).status.busy = false ∧ (blockSteps 2 s).status.done = true ∧
        (blockSteps 2 s).result = verdictWord (MRV s.lm)) ∧
    (5 ≤ s.lm.toNat → s.lm.toNat % 2 = 1 →
      13 * (halveWhile (sub64 s.lm 1#64) 0).2 + 5 ≤ 824 ∧
        ∃ k, k ≤ 13 * (halveWhile (sub64 s.lm 1#64) 0).2 + 5 ∧
          (blockSteps k s).status.busy = false ∧ (blockSteps k s).status.done = true ∧
          (blockSteps k s).result = verdictWord (MRV s.lm))

/-! ## The five functions -/

/-- R102: the adder's contract, and that no primitive wraps inside it. -/
def Obligations.AdderMeetsItsContract : Prop :=
  ∀ a b m : Word, 1 ≤ m.toNat → a.toNat < m.toNat → b.toNat < m.toNat →
    (ADDM a b m).toNat = (a.toNat + b.toNat) % m.toNat ∧
    (sub64 m b).toNat = m.toNat - b.toNat ∧ 1 ≤ (sub64 m b).toNat ∧ (sub64 m b).toNat ≤ m.toNat ∧
    (a ≥ sub64 m b → (sub64 a (sub64 m b)).toNat = a.toNat + b.toNat - m.toNat ∧
      (sub64 a (sub64 m b)).toNat + 2 ≤ m.toNat ∧ ADDM a b m = sub64 a (sub64 m b)) ∧
    (¬a ≥ sub64 m b → (add64 a b).toNat = a.toNat + b.toNat ∧ (add64 a b).toNat < m.toNat ∧
      ADDM a b m = add64 a b)

/-- R103: the adder on every other input with m != 0, exactly when its value is the mathematical one, and that
`MODADD` raises no fault whatever `OPA` and `OPB` hold. -/
def Obligations.AdderOutsideItsContract : Prop :=
  (∀ a b m : Word, m ≠ 0#64 →
    (b.toNat ≤ m.toNat → (ADDM a b m).toNat = (a.toNat + b.toNat) % m.toNat) ∧
    (m.toNat < b.toNat → a.toNat + b.toNat < 2 ^ 64 → (ADDM a b m).toNat = (a.toNat + b.toNat) % m.toNat) ∧
    (m.toNat < b.toNat → 2 ^ 64 ≤ a.toNat + b.toNat →
      (ADDM a b m).toNat = (a.toNat + b.toNat - 2 ^ 64) % m.toNat) ∧
    ((ADDM a b m).toNat = (a.toNat + b.toNat) % m.toNat ↔
      b.toNat ≤ m.toNat ∨ a.toNat + b.toNat < 2 ^ 64 ∨ ∃ k, m.toNat = 2 ^ k)) ∧
  ADDM 5#64 18446744073709551615#64 10#64 = 4#64 ∧ ADDM 18446744073709551615#64 5#64 10#64 = 0#64 ∧
  ∀ s : State, Idle s → s.opm ≠ 0#64 →
    ∃ t, exec .modadd s = .next t ∧ NoFault t ∧ ∀ k, NoFault (blockSteps k t)

/-- R112: the subtractor's contract. -/
def Obligations.SubtractorMeetsItsContract : Prop :=
  ∀ a b m : Word, 1 ≤ m.toNat →
    (b.toNat ≤ a.toNat ∨ b.toNat - a.toNat ≤ m.toNat →
      ((SUBM a b m).toNat : Int) = ((a.toNat : Int) - (b.toNat : Int)) % (m.toNat : Int)) ∧
    (a.toNat < m.toNat → b.toNat < m.toNat →
      ((SUBM a b m).toNat : Int) = ((a.toNat : Int) - (b.toNat : Int)) % (m.toNat : Int))

/-- R113: the subtractor on the remaining inputs, exactly when its value is the mathematical one, and that `MODSUB`
delivers a value below m and raises no fault whatever `OPA` and `OPB` hold. -/
def Obligations.SubtractorOutsideItsContract : Prop :=
  (∀ a b m : Word, m ≠ 0#64 →
    (a.toNat < b.toNat → m.toNat < b.toNat - a.toNat →
      (sub64 (add64 a m) b).toNat = 2 ^ 64 + a.toNat + m.toNat - b.toNat ∧
      (SUBM a b m).toNat = (2 ^ 64 + a.toNat - b.toNat) % m.toNat) ∧
    (SUBM a b m).toNat < m.toNat ∧
    (((SUBM a b m).toNat : Int) = ((a.toNat : Int) - (b.toNat : Int)) % (m.toNat : Int) ↔
      b.toNat ≤ a.toNat ∨ b.toNat - a.toNat ≤ m.toNat ∨ ∃ k, m.toNat = 2 ^ k)) ∧
  SUBM 3#64 25#64 10#64 = 4#64 ∧
  ∀ s : State, Idle s → s.opm ≠ 0#64 →
    ∃ t, exec .modsub s = .next t ∧ NoFault t ∧ ∀ k, NoFault (blockSteps k t)

/-- R104, R114, R124, R139: the range of the four arithmetic functions, with the one exception of R139. -/
def Obligations.ResultsLieBelowTheModulus : Prop :=
  ∀ a b m : Word, m ≠ 0#64 →
    (ADDM a b m).toNat < m.toNat ∧ (SUBM a b m).toNat < m.toNat ∧ (MULM a b m).toNat < m.toNat ∧
      (2 ≤ m.toNat → (POWM a b m).toNat < m.toNat) ∧
      (m = 1#64 → MULM a b m = 0#64 ∧ (b ≠ 0#64 → POWM a b m = 0#64) ∧ (b = 0#64 → POWM a b m = 1#64))

/-- R105, R115: commutativity, identity and inverse consistency of ADD and SUB; SUB is not commutative. -/
def Obligations.AddAndSubLaws : Prop :=
  (∀ a b m : Word, m ≠ 0#64 →
    SUBM a a m = 0#64 ∧ SUBM a 0#64 m = rem64 a m ∧ ADDM a 0#64 m = rem64 a m ∧
    (a < m → b < m →
      ADDM a b m = ADDM b a m ∧ ADDM a 0#64 m = a ∧ SUBM (ADDM a b m) b m = a ∧ ADDM (SUBM a b m) b m = a)) ∧
  ∃ a b m : Word, a < m ∧ b < m ∧ SUBM a b m ≠ SUBM b a m

/-- R123: the multiplier is exact for all operands and every m >= 1, and its loop keeps I1 and I2. -/
def Obligations.MultiplierIsExact : Prop :=
  ∀ a b m : Word, m ≠ 0#64 →
    (MULM a b m).toNat = a.toNat * b.toNat % m.toNat ∧
    ((mulLoad a b m).a < m ∧ (mulLoad a b m).r < m ∧
      ((mulLoad a b m).r.toNat + (mulLoad a b m).a.toNat * (mulLoad a b m).b.toNat) % m.toNat =
        a.toNat * b.toNat % m.toNat) ∧
    ∀ q : MulRegs, q.m = m → q.b ≠ 0#64 → q.a < m → q.r < m →
      (q.r.toNat + q.a.toNat * q.b.toNat) % m.toNat = a.toNat * b.toNat % m.toNat →
      (mulIterate q).a < m ∧ (mulIterate q).r < m ∧
        ((mulIterate q).r.toNat + (mulIterate q).a.toNat * (mulIterate q).b.toNat) % m.toNat =
          a.toNat * b.toNat % m.toNat

/-- R125: the laws of the multiplier, and that a run makes `bitlen` of its second operand iterations. -/
def Obligations.MultiplierLaws : Prop :=
  ∀ a b m : Word, m ≠ 0#64 →
    MULM a b m = MULM b a m ∧ MULM a 1#64 m = rem64 a m ∧ MULM a 0#64 m = 0#64 ∧ MULM 0#64 b m = 0#64 ∧
      MULM a b m = MULM (rem64 a m) (rem64 b m) m ∧
      (∀ k, k < bitlen b → (mulIterations k (mulLoad a b m)).b ≠ 0#64) ∧
      (mulIterations (bitlen b) (mulLoad a b m)).b = 0#64

/-- R138: the exponentiator is exact for all operands and every m >= 2, its values for m = 1, and its loop keeps J1 and
J2. -/
def Obligations.ExponentiatorIsExact : Prop :=
  (∀ a b m : Word, 2 ≤ m.toNat →
    (POWM a b m).toNat = a.toNat ^ b.toNat % m.toNat ∧
    ((powLoad a b m).a < m ∧ (powLoad a b m).r < m ∧
      (powLoad a b m).r.toNat * (powLoad a b m).a.toNat ^ (powLoad a b m).b.toNat % m.toNat =
        a.toNat ^ b.toNat % m.toNat) ∧
    ∀ q : PowRegs, q.m = m → q.b ≠ 0#64 → q.a < m → q.r < m →
      q.r.toNat * q.a.toNat ^ q.b.toNat % m.toNat = a.toNat ^ b.toNat % m.toNat →
      (powIterate q).a < m ∧ (powIterate q).r < m ∧
        (powIterate q).r.toNat * (powIterate q).a.toNat ^ (powIterate q).b.toNat % m.toNat =
          a.toNat ^ b.toNat % m.toNat) ∧
  (∀ a : Word, POWM a 0#64 1#64 = 1#64) ∧ ∀ a b : Word, b ≠ 0#64 → POWM a b 1#64 = 0#64

/-- R140: the laws of the exponentiator. -/
def Obligations.ExponentiatorLaws : Prop :=
  ∀ a b m : Word, m ≠ 0#64 →
    POWM a 0#64 m = 1#64 ∧ POWM a 1#64 m = rem64 a m ∧ POWM a b m = POWM (rem64 a m) b m ∧
      (2 ≤ m.toNat → b.toNat + 1 < 2 ^ 64 → POWM a (b + 1#64) m = MULM (POWM a b m) a m)

/-! ## The decision engine -/

/-- R152: the trivial inputs, decided by `MRE.Classify` with no modular operation: MUL and POW keep their registers.
Every other input goes through the base loop with its decomposition. -/
def Obligations.TrivialInputsAreClassified : Prop :=
  MRV 0#64 = false ∧ MRV 1#64 = false ∧ MRV 2#64 = true ∧ MRV 3#64 = true ∧
  (∀ n : Word, 4 ≤ n.toNat → n.toNat % 2 = 0 → MRV n = false) ∧
  (∀ n : Word, 5 ≤ n.toNat → n.toNat % 2 = 1 →
    MRV n = baseLoop Config.baseTable.toList (halveWhile (sub64 n 1#64) 0).1 (halveWhile (sub64 n 1#64) 0).2 n) ∧
  ∀ s : State, s.mre.n.toNat < 5 ∨ s.mre.n.toNat % 2 = 0 →
    mreClassify s = { s with
      result := verdictWord (MRV s.mre.n), status := { s.status with busy := false, done := true } }

/-- R153: the decomposition of n - 1 for an odd n of at least 5: existence, uniqueness, bounds, no wrap, and the one
extreme input. -/
def Obligations.DecompositionIsTheUniqueOne : Prop :=
  ∀ n : Word, 5 ≤ n.toNat → n.toNat % 2 = 1 →
    (sub64 n 1#64).toNat = n.toNat - 1 ∧ (sub64 n 2#64).toNat = n.toNat - 2 ∧
    n.toNat - 1 = (halveWhile (sub64 n 1#64) 0).1.toNat * 2 ^ (halveWhile (sub64 n 1#64) 0).2 ∧
    (halveWhile (sub64 n 1#64) 0).1.toNat % 2 = 1 ∧
    1 ≤ (halveWhile (sub64 n 1#64) 0).2 ∧ (halveWhile (sub64 n 1#64) 0).2 ≤ 63 ∧
    1 ≤ (halveWhile (sub64 n 1#64) 0).1.toNat ∧ (halveWhile (sub64 n 1#64) 0).1.toNat ≤ (n.toNat - 1) / 2 ∧
    (∀ d r : Nat, n.toNat - 1 = d * 2 ^ r → d % 2 = 1 →
      d = (halveWhile (sub64 n 1#64) 0).1.toNat ∧ r = (halveWhile (sub64 n 1#64) 0).2) ∧
    ((halveWhile (sub64 n 1#64) 0).2 = 63 ↔ n.toNat = 2 ^ 63 + 1) ∧
    (n.toNat = 2 ^ 63 + 1 → (halveWhile (sub64 n 1#64) 0).1 = 1#64)

/-- R34, R154, R165: the twelve entries of the table; it is strictly increasing; an eligible base lies between 2 and n - 2; how many bases are
eligible for each odd n. -/
def Obligations.EligibleBasesAreTheSpecs : Prop :=
  Config.baseTable.toList =
    [2#64, 3#64, 5#64, 7#64, 11#64, 13#64, 17#64, 19#64, 23#64, 29#64, 31#64, 37#64] ∧
  (∀ j k : Fin 12, j < k → (tableBase j).toNat < (tableBase k).toNat) ∧
  (∀ (n : Word) (k : Fin 12), eligible n k → 2 ≤ (tableBase k).toNat ∧ (tableBase k).toNat + 2 ≤ n.toNat) ∧
  [5, 7, 9, 11, 13, 15, 17, 19, 21, 23, 25, 27, 29, 31, 33, 35, 37].map eligibleCount =
    [2, 3, 4, 4, 5, 6, 6, 7, 8, 8, 9, 9, 9, 10, 11, 11, 11] ∧
  ∀ n : Nat, 39 ≤ n → eligibleCount n = 12

/-- R157 with R154 to R156: `MRV(n) = 1` exactly when n is 2 or 3, or odd and at least 5 with no eligible base a witness
of compositeness, "witness" said in plain number theory. -/
def Obligations.VerdictIsTheStrongTest : Prop :=
  ∀ n : Word, MRV n = true ↔
    n.toNat = 2 ∨ n.toNat = 3 ∨
      (5 ≤ n.toNat ∧ n.toNat % 2 = 1 ∧
        ∀ d r : Nat, n.toNat - 1 = d * 2 ^ r → d % 2 = 1 →
          ∀ k : Fin 12, eligible n k → ¬witnesses (tableBase k).toNat d r n.toNat)

/-- R162 (the direction that needs no table of the literature): every prime below 2^64 gets verdict 1, so verdict 0
proves a number composite. The converse is not claimed. -/
def Obligations.PrimesGetVerdictOne : Prop :=
  ∀ n : Word, Nat.Prime n.toNat → MRV n = true

/-! ## Whole runs -/

/-- The invariant holds right after reset. It says nothing about the hidden registers there (log 3). -/
def Obligations.InvariantHoldsAfterReset : Prop := Inv State.reset

/-- Every step keeps the invariant (R25, R27, R29, R35, R123, R138, R153, R159, R160): level B owes and delivers level
A's values, and MRE's registers are what its rules say. -/
def Obligations.EveryStepKeepsTheInvariant : Prop :=
  ∀ s t : State, Inv s → step s = .next t → Inv t

/-- R257, R255, R221: a running command completes, whatever the schedule and whatever the host does short of a reset and
a `CMD` write: some later state has `DONE = 1`, no fault, and in `RESULT` the value of the running command's function
for the latched operands. -/
def Obligations.EveryRunningCommandCompletes : Prop :=
  ∀ (s : State) (i : Instr), Inv s → s.status.busy = true → decodeWord s.cmd = some i → QuietScript s.script →
    ∃ n t, runsTo n s t ∧ t.status.busy = false ∧ t.status.done = true ∧ NoFault t ∧ t.cmd = s.cmd ∧
      t.result = commandValue i s.la s.lb s.lm

/-- R100, R110, R120, R135, R150, R29: each command, written while the block is idle (a modular one with `OPM != 0`),
is answered by a next state from which, under any schedule, the block reaches `DONE = 1` with the command's function
value of the operands in `RESULT`; the operand registers hold what the host last wrote. -/
def Obligations.EveryCommandDeliversItsValue : Prop :=
  ∀ (s : State) (i : Instr), Idle s → (i ≠ .isprime → s.opm ≠ 0#64) → s.script = [] →
    ∃ t, exec i s = .next t ∧
      ∃ n u, runsTo n t u ∧ u.status.busy = false ∧ u.status.done = true ∧ NoFault u ∧ u.cmd = encode i ∧
        u.result = commandValue i s.opa s.opb s.opm ∧ u.opa = s.opa ∧ u.opb = s.opb ∧ u.opm = s.opm

/-- R78, R80: the pseudo-instruction of each command, from any idle state and under any schedule, ends with `STATUS`
reading 2 and then the function value appended to the read log, and with the registers the spec's tables give. -/
def Obligations.PseudoInstructionDeliversItsValue : Prop :=
  ∀ (s : State) (i : Instr) (a b m : Word) (rest : List HostStmt), Idle s → (i ≠ .isprime → m ≠ 0#64) →
    s.script = pseudoInstruction i a b m ++ rest →
    ∃ n t, runsTo n s t ∧ t.script = rest ∧ t.readLog = s.readLog ++ [2#64, commandValue i a b m] ∧
      t.cmd = encode i ∧ statusWord t.status = 2#64 ∧ t.result = commandValue i a b m ∧ t.opm = m ∧
      (i ≠ .isprime → t.opa = a ∧ t.opb = b) ∧ (i = .isprime → t.opa = s.opa ∧ t.opb = s.opb)

/-- R37, R30 to R33, R166: the hidden registers of an idle block never show: two idle states that differ in nothing else
give the host the same view after any number of steps. -/
def Obligations.HiddenRegistersNeverShow : Prop :=
  ∀ s t : State, s.status.busy = false → sameButHidden s t →
    ∀ (n : Nat) (u v : State), runsTo n s u → runsTo n t v → sameView u v
end

