-- ==== Sys2Proof/Laws/Datapath.lean ====
section
/-! SUPPORT. The datapath primitives and the loops of the units: one lemma for what each does. -/

namespace Sys2Proof.Machine

theorem rem64_of_ne_zero {m : Word} (u : Word) (h : m ≠ 0#64) : rem64 u m = u % m := by simp [rem64, h]

theorem rem64_toNat {m : Word} (u : Word) (h : m ≠ 0#64) : (rem64 u m).toNat = u.toNat % m.toNat := by
  rw [rem64_of_ne_zero u h, BitVec.toNat_umod]

theorem toNat_pos_of_ne_zero {m : Word} (h : m ≠ 0#64) : 0 < m.toNat := by
  rcases Nat.eq_zero_or_pos m.toNat with h0 | h0
  · exact absurd (BitVec.eq_of_toNat_eq (by simpa using h0)) h
  · exact h0

theorem rem64_lt {m : Word} (u : Word) (h : m ≠ 0#64) : rem64 u m < m := by
  rw [BitVec.lt_def, rem64_toNat u h]
  exact Nat.mod_lt _ (toNat_pos_of_ne_zero h)

@[simp] theorem shr1_toNat (u : Word) : (shr1 u).toNat = u.toNat / 2 := by
  simp [shr1, Nat.shiftRight_eq_div_pow]

theorem lowBit_eq (u : Word) : lowBit u = decide (u.toNat % 2 = 1) := by
  simp [lowBit, BitVec.getLsbD, Nat.testBit_zero]

theorem shr1_lt {fuel : Nat} {u : Word} (h : u.toNat < 2 ^ (fuel + 1)) : (shr1 u).toNat < 2 ^ fuel := by
  rw [shr1_toNat]; omega

/-- A word is below two to its bit length. -/
theorem lt_two_pow_bitlen (u : Word) : u.toNat < 2 ^ bitlen u := by
  unfold bitlen
  split
  · rename_i h; simp [h]
  · exact Nat.lt_log2_self

/-- Halving shortens a word that is not zero by one bit. -/
theorem bitlen_shr1 {u : Word} (h : u ≠ 0#64) : bitlen u = bitlen (shr1 u) + 1 := by
  have hp := toNat_pos_of_ne_zero h
  unfold bitlen
  rw [if_neg h]
  by_cases h1 : shr1 u = 0#64
  · rw [if_pos h1]
    have := congrArg BitVec.toNat h1
    simp only [shr1_toNat, BitVec.toNat_ofNat] at this
    have hu : u.toNat = 1 := by omega
    rw [hu]; decide
  · rw [if_neg h1, shr1_toNat]
    have h2 := toNat_pos_of_ne_zero h1
    rw [shr1_toNat] at h2
    rw [Nat.log2_def, if_pos (by omega)]

theorem mulLoop_succ (f : Nat) (A B R m : Word) : mulLoop (f + 1) A B R m =
    if B = 0#64 then R else mulLoop f (ADDM A A m) (shr1 B) (if lowBit B then ADDM R A m else R) m := rfl

theorem powLoop_succ (f : Nat) (A B R m : Word) : powLoop (f + 1) A B R m =
    if B = 0#64 then R else powLoop f (MULM A A m) (shr1 B) (if lowBit B then MULM R A m else R) m := rfl

theorem halve_succ (f : Nat) (d : Word) (r : Nat) : halve (f + 1) d r =
    if lowBit d then (d, r) else halve f (shr1 d) (r + 1) := rfl

/-- Fuel beyond the width of B changes nothing in the loop of MUL. -/
theorem mulLoop_fuel (m : Word) : ∀ (f g : Nat) (A B R : Word), B.toNat < 2 ^ f → B.toNat < 2 ^ g →
    mulLoop f A B R m = mulLoop g A B R m := by
  intro f
  induction f with
  | zero =>
    intro g A B R hf _
    have hB : B = 0#64 := BitVec.eq_of_toNat_eq (by simpa using hf)
    cases g <;> simp [mulLoop, hB]
  | succ f ih =>
    intro g A B R hf hg
    cases g with
    | zero =>
      have hB : B = 0#64 := BitVec.eq_of_toNat_eq (by simpa using hg)
      simp [mulLoop, hB]
    | succ g =>
      simp only [mulLoop]
      split
      · rfl
      · exact ih g _ _ _ (shr1_lt hf) (shr1_lt hg)

/-- One iteration of the loop of MUL. -/
theorem mulWhile_unroll (A R m : Word) {B : Word} (h : B ≠ 0#64) :
    mulWhile A B R m = mulWhile (ADDM A A m) (shr1 B) (if lowBit B then ADDM R A m else R) m := by
  unfold mulWhile
  rw [bitlen_shr1 h, mulLoop_succ, if_neg h]

/-- The loop ends when B is 0. -/
theorem mulWhile_done (A R m : Word) : mulWhile A 0#64 R m = R := rfl

/-- Fuel beyond the width of B changes nothing in the loop of POW. -/
theorem powLoop_fuel (m : Word) : ∀ (f g : Nat) (A B R : Word), B.toNat < 2 ^ f → B.toNat < 2 ^ g →
    powLoop f A B R m = powLoop g A B R m := by
  intro f
  induction f with
  | zero =>
    intro g A B R hf _
    have hB : B = 0#64 := BitVec.eq_of_toNat_eq (by simpa using hf)
    cases g <;> simp [powLoop, hB]
  | succ f ih =>
    intro g A B R hf hg
    cases g with
    | zero =>
      have hB : B = 0#64 := BitVec.eq_of_toNat_eq (by simpa using hg)
      simp [powLoop, hB]
    | succ g =>
      simp only [powLoop]
      split
      · rfl
      · exact ih g _ _ _ (shr1_lt hf) (shr1_lt hg)

/-- One iteration of the loop of POW. -/
theorem powWhile_unroll (A R m : Word) {B : Word} (h : B ≠ 0#64) :
    powWhile A B R m = powWhile (MULM A A m) (shr1 B) (if lowBit B then MULM R A m else R) m := by
  unfold powWhile
  rw [bitlen_shr1 h, powLoop_succ, if_neg h]

/-- The loop ends when B is 0. -/
theorem powWhile_done (A R m : Word) : powWhile A 0#64 R m = R := rfl

/-- Fuel beyond the width of d changes nothing in the halving loop, for d != 0. -/
theorem halve_fuel : ∀ (f g : Nat) (d : Word) (r : Nat), d ≠ 0#64 → d.toNat < 2 ^ f → d.toNat < 2 ^ g →
    halve f d r = halve g d r := by
  intro f
  induction f with
  | zero =>
    intro g d r h0 hf _
    exact absurd (BitVec.eq_of_toNat_eq (by simpa using hf)) h0
  | succ f ih =>
    intro g d r h0 hf hg
    cases g with
    | zero => exact absurd (BitVec.eq_of_toNat_eq (by simpa using hg)) h0
    | succ g =>
      simp only [halve]
      split
      · rfl
      · rename_i hodd
        refine ih g _ _ ?_ (shr1_lt hf) (shr1_lt hg)
        intro hz
        have h1 := congrArg BitVec.toNat hz
        have h2 := toNat_pos_of_ne_zero h0
        simp only [shr1_toNat] at h1
        simp only [lowBit_eq, decide_eq_true_eq] at hodd
        simp at h1
        omega

/-- One halving. -/
theorem halveWhile_unroll (r : Nat) {d : Word} (h0 : d ≠ 0#64) (hd : lowBit d = false) :
    halveWhile d r = halveWhile (shr1 d) (r + 1) := by
  unfold halveWhile
  rw [bitlen_shr1 h0, halve_succ, if_neg (by simp [hd])]

/-- The halving ends when d is odd. -/
theorem halveWhile_done (r : Nat) {d : Word} (h0 : d ≠ 0#64) (hd : lowBit d = true) : halveWhile d r = (d, r) := by
  unfold halveWhile
  rw [bitlen_shr1 h0, halve_succ, if_pos hd]

end Sys2Proof.Machine
end

