-- ==== Sys2Proof/Laws/Decode.lean ====
section
/-! SUPPORT. What the decoder and the encoder of command words do. -/

namespace Sys2Proof

/-- An encoded command decodes to itself. -/
@[simp] theorem decodeWord_encode (i : Instr) : decodeWord (encode i) = some i := by
  cases i <;> decide

/-- The number of a command word is its opcode's. -/
theorem encode_toNat (i : Instr) : (encode i).toNat = (opcodeOf i).toNat := by
  cases i <;> decide

/-- What decodes has no bit of `ZERO` set and its `OP` is the command's opcode. -/
theorem decodeWord_fields {w : Word} {i : Instr} (h : decodeWord w = some i) :
    zeroField w = 0#61 ∧ decodeOp (opField w) = some i := by
  unfold decodeWord at h
  split at h
  · exact ⟨‹_›, h⟩
  · cases h

/-- The opcode map read backwards. -/
theorem opcodeOf_of_decodeOp {op : BitVec 3} {i : Instr} (h : decodeOp op = some i) : op = opcodeOf i := by
  revert h; revert op i
  intro op i
  cases i <;> revert op <;> decide

end Sys2Proof
end

