-- ==== Sys2Proof/Laws/PerInstr.lean ====
section
/-! SUPPORT. Statements made for every command as syntax, one lemma a command. -/

namespace Sys2Proof.Laws.LegalWord

/-- The word a command encodes to passes the check of R71, and the command is well formed. -/
def Statement (i : Instr) : Prop := i.wellFormed = true ∧ legalWord (encode i) = true

theorem modadd : Statement .modadd := by unfold Statement; decide
theorem modsub : Statement .modsub := by unfold Statement; decide
theorem modmul : Statement .modmul := by unfold Statement; decide
theorem modpow : Statement .modpow := by unfold Statement; decide
theorem isprime : Statement .isprime := by unfold Statement; decide

end Sys2Proof.Laws.LegalWord
end

