-- ==== Sys2Proof/Laws/State.lean ====
section
/-! SUPPORT. One lemma per field for each shared update of the state, so that no later proof unfolds a record update. -/

namespace Sys2Proof.Machine

variable (s : State)


/-! `accept` -/

@[simp] theorem accept_opa (w : Word) : (accept w s).opa = s.opa := rfl
@[simp] theorem accept_opb (w : Word) : (accept w s).opb = s.opb := rfl
@[simp] theorem accept_opm (w : Word) : (accept w s).opm = s.opm := rfl
@[simp] theorem accept_cmd (w : Word) : (accept w s).cmd = w := rfl
@[simp] theorem accept_status (w : Word) : (accept w s).status = statusAccepted s.status := rfl
@[simp] theorem accept_result (w : Word) : (accept w s).result = s.result := rfl
@[simp] theorem accept_la (w : Word) : (accept w s).la = s.opa := rfl
@[simp] theorem accept_lb (w : Word) : (accept w s).lb = s.opb := rfl
@[simp] theorem accept_lm (w : Word) : (accept w s).lm = s.opm := rfl
@[simp] theorem accept_mul (w : Word) : (accept w s).mul = s.mul := rfl
@[simp] theorem accept_pow (w : Word) : (accept w s).pow = s.pow := rfl
@[simp] theorem accept_mre (w : Word) : (accept w s).mre = s.mre := rfl
@[simp] theorem accept_loaded (w : Word) : (accept w s).loaded = false := rfl
@[simp] theorem accept_script (w : Word) : (accept w s).script = s.script := rfl
@[simp] theorem accept_readLog (w : Word) : (accept w s).readLog = s.readLog := rfl
@[simp] theorem accept_turns (w : Word) : (accept w s).turns = s.turns := rfl
@[simp] theorem accept_turnCount (w : Word) : (accept w s).turnCount = s.turnCount := rfl
@[simp] theorem accept_freeCount (w : Word) : (accept w s).freeCount = s.freeCount := rfl

/-! `complete` -/

@[simp] theorem complete_opa (v : Word) : (complete v s).opa = s.opa := rfl
@[simp] theorem complete_opb (v : Word) : (complete v s).opb = s.opb := rfl
@[simp] theorem complete_opm (v : Word) : (complete v s).opm = s.opm := rfl
@[simp] theorem complete_cmd (v : Word) : (complete v s).cmd = s.cmd := rfl
@[simp] theorem complete_status (v : Word) : (complete v s).status = statusCompleted s.status := rfl
@[simp] theorem complete_result (v : Word) : (complete v s).result = v := rfl
@[simp] theorem complete_la (v : Word) : (complete v s).la = s.la := rfl
@[simp] theorem complete_lb (v : Word) : (complete v s).lb = s.lb := rfl
@[simp] theorem complete_lm (v : Word) : (complete v s).lm = s.lm := rfl
@[simp] theorem complete_mul (v : Word) : (complete v s).mul = s.mul := rfl
@[simp] theorem complete_pow (v : Word) : (complete v s).pow = s.pow := rfl
@[simp] theorem complete_mre (v : Word) : (complete v s).mre = s.mre := rfl
@[simp] theorem complete_loaded (v : Word) : (complete v s).loaded = s.loaded := rfl
@[simp] theorem complete_script (v : Word) : (complete v s).script = s.script := rfl
@[simp] theorem complete_readLog (v : Word) : (complete v s).readLog = s.readLog := rfl
@[simp] theorem complete_turns (v : Word) : (complete v s).turns = s.turns := rfl
@[simp] theorem complete_turnCount (v : Word) : (complete v s).turnCount = s.turnCount := rfl
@[simp] theorem complete_freeCount (v : Word) : (complete v s).freeCount = s.freeCount := rfl

/-! `faultEntry` -/

@[simp] theorem faultEntry_opa (c : Cause) : (faultEntry c s).opa = s.opa := rfl
@[simp] theorem faultEntry_opb (c : Cause) : (faultEntry c s).opb = s.opb := rfl
@[simp] theorem faultEntry_opm (c : Cause) : (faultEntry c s).opm = s.opm := rfl
@[simp] theorem faultEntry_cmd (c : Cause) : (faultEntry c s).cmd = s.cmd := rfl
@[simp] theorem faultEntry_status (c : Cause) : (faultEntry c s).status = statusFaulted c s.status := rfl
@[simp] theorem faultEntry_result (c : Cause) : (faultEntry c s).result = s.result := rfl
@[simp] theorem faultEntry_la (c : Cause) : (faultEntry c s).la = s.la := rfl
@[simp] theorem faultEntry_lb (c : Cause) : (faultEntry c s).lb = s.lb := rfl
@[simp] theorem faultEntry_lm (c : Cause) : (faultEntry c s).lm = s.lm := rfl
@[simp] theorem faultEntry_mul (c : Cause) : (faultEntry c s).mul = s.mul := rfl
@[simp] theorem faultEntry_pow (c : Cause) : (faultEntry c s).pow = s.pow := rfl
@[simp] theorem faultEntry_mre (c : Cause) : (faultEntry c s).mre = s.mre := rfl
@[simp] theorem faultEntry_loaded (c : Cause) : (faultEntry c s).loaded = s.loaded := rfl
@[simp] theorem faultEntry_script (c : Cause) : (faultEntry c s).script = s.script := rfl
@[simp] theorem faultEntry_readLog (c : Cause) : (faultEntry c s).readLog = s.readLog := rfl
@[simp] theorem faultEntry_turns (c : Cause) : (faultEntry c s).turns = s.turns := rfl
@[simp] theorem faultEntry_turnCount (c : Cause) : (faultEntry c s).turnCount = s.turnCount := rfl
@[simp] theorem faultEntry_freeCount (c : Cause) : (faultEntry c s).freeCount = s.freeCount := rfl

/-! `readToLog` -/

@[simp] theorem readToLog_opa (i : RegIndex) : (readToLog i s).opa = s.opa := by unfold readToLog afterRead; split <;> rfl
@[simp] theorem readToLog_opb (i : RegIndex) : (readToLog i s).opb = s.opb := by unfold readToLog afterRead; split <;> rfl
@[simp] theorem readToLog_opm (i : RegIndex) : (readToLog i s).opm = s.opm := by unfold readToLog afterRead; split <;> rfl
@[simp] theorem readToLog_cmd (i : RegIndex) : (readToLog i s).cmd = s.cmd := by unfold readToLog afterRead; split <;> rfl
@[simp] theorem readToLog_status (i : RegIndex) : (readToLog i s).status = s.status := by unfold readToLog afterRead; split <;> rfl
@[simp] theorem readToLog_result (i : RegIndex) : (readToLog i s).result = s.result := by unfold readToLog afterRead; split <;> rfl
@[simp] theorem readToLog_la (i : RegIndex) : (readToLog i s).la = s.la := by unfold readToLog afterRead; split <;> rfl
@[simp] theorem readToLog_lb (i : RegIndex) : (readToLog i s).lb = s.lb := by unfold readToLog afterRead; split <;> rfl
@[simp] theorem readToLog_lm (i : RegIndex) : (readToLog i s).lm = s.lm := by unfold readToLog afterRead; split <;> rfl
@[simp] theorem readToLog_mul (i : RegIndex) : (readToLog i s).mul = s.mul := by unfold readToLog afterRead; split <;> rfl
@[simp] theorem readToLog_pow (i : RegIndex) : (readToLog i s).pow = s.pow := by unfold readToLog afterRead; split <;> rfl
@[simp] theorem readToLog_mre (i : RegIndex) : (readToLog i s).mre = s.mre := by unfold readToLog afterRead; split <;> rfl
@[simp] theorem readToLog_loaded (i : RegIndex) : (readToLog i s).loaded = s.loaded := by unfold readToLog afterRead; split <;> rfl
@[simp] theorem readToLog_script (i : RegIndex) : (readToLog i s).script = s.script := by unfold readToLog afterRead; split <;> rfl
@[simp] theorem readToLog_readLog (i : RegIndex) : (readToLog i s).readLog = s.readLog ++ [readValue i s] := by unfold readToLog afterRead; split <;> rfl
@[simp] theorem readToLog_turns (i : RegIndex) : (readToLog i s).turns = s.turns := by unfold readToLog afterRead; split <;> rfl
@[simp] theorem readToLog_turnCount (i : RegIndex) : (readToLog i s).turnCount = s.turnCount := by unfold readToLog afterRead; split <;> rfl
@[simp] theorem readToLog_freeCount (i : RegIndex) : (readToLog i s).freeCount = if i = 5#3 ∧ resultHidden s then s.freeCount + 1 else s.freeCount := by unfold readToLog afterRead; split <;> rfl

/-! `storeRegister` changes the operand registers only -/

@[simp] theorem storeRegister_cmd (i : RegIndex) (v : Word) : (storeRegister i v s).cmd = s.cmd := by
  unfold storeRegister; split <;> rfl
@[simp] theorem storeRegister_status (i : RegIndex) (v : Word) : (storeRegister i v s).status = s.status := by
  unfold storeRegister; split <;> rfl
@[simp] theorem storeRegister_result (i : RegIndex) (v : Word) : (storeRegister i v s).result = s.result := by
  unfold storeRegister; split <;> rfl
@[simp] theorem storeRegister_la (i : RegIndex) (v : Word) : (storeRegister i v s).la = s.la := by
  unfold storeRegister; split <;> rfl
@[simp] theorem storeRegister_lb (i : RegIndex) (v : Word) : (storeRegister i v s).lb = s.lb := by
  unfold storeRegister; split <;> rfl
@[simp] theorem storeRegister_lm (i : RegIndex) (v : Word) : (storeRegister i v s).lm = s.lm := by
  unfold storeRegister; split <;> rfl
@[simp] theorem storeRegister_mul (i : RegIndex) (v : Word) : (storeRegister i v s).mul = s.mul := by
  unfold storeRegister; split <;> rfl
@[simp] theorem storeRegister_pow (i : RegIndex) (v : Word) : (storeRegister i v s).pow = s.pow := by
  unfold storeRegister; split <;> rfl
@[simp] theorem storeRegister_mre (i : RegIndex) (v : Word) : (storeRegister i v s).mre = s.mre := by
  unfold storeRegister; split <;> rfl
@[simp] theorem storeRegister_loaded (i : RegIndex) (v : Word) : (storeRegister i v s).loaded = s.loaded := by
  unfold storeRegister; split <;> rfl
@[simp] theorem storeRegister_script (i : RegIndex) (v : Word) : (storeRegister i v s).script = s.script := by
  unfold storeRegister; split <;> rfl
@[simp] theorem storeRegister_readLog (i : RegIndex) (v : Word) : (storeRegister i v s).readLog = s.readLog := by
  unfold storeRegister; split <;> rfl
@[simp] theorem storeRegister_turns (i : RegIndex) (v : Word) : (storeRegister i v s).turns = s.turns := by
  unfold storeRegister; split <;> rfl
@[simp] theorem storeRegister_turnCount (i : RegIndex) (v : Word) : (storeRegister i v s).turnCount = s.turnCount := by
  unfold storeRegister; split <;> rfl
@[simp] theorem storeRegister_freeCount (i : RegIndex) (v : Word) : (storeRegister i v s).freeCount = s.freeCount := by
  unfold storeRegister; split <;> rfl

/-! `resetEvent` -/

@[simp] theorem resetEvent_opa : (resetEvent s).opa = 0#64 := rfl
@[simp] theorem resetEvent_opb : (resetEvent s).opb = 0#64 := rfl
@[simp] theorem resetEvent_opm : (resetEvent s).opm = 0#64 := rfl
@[simp] theorem resetEvent_cmd : (resetEvent s).cmd = 0#64 := rfl
@[simp] theorem resetEvent_status : (resetEvent s).status = ⟨false, false, false, false, false⟩ := rfl
@[simp] theorem resetEvent_result : (resetEvent s).result = 0#64 := rfl
@[simp] theorem resetEvent_loaded : (resetEvent s).loaded = false := rfl
@[simp] theorem resetEvent_mre : (resetEvent s).mre = freeMre (s.freeCount + 11) := rfl
@[simp] theorem resetEvent_script : (resetEvent s).script = s.script := rfl
@[simp] theorem resetEvent_readLog : (resetEvent s).readLog = s.readLog := rfl
@[simp] theorem resetEvent_turns : (resetEvent s).turns = s.turns := rfl
@[simp] theorem resetEvent_turnCount : (resetEvent s).turnCount = s.turnCount := rfl
@[simp] theorem resetEvent_freeCount : (resetEvent s).freeCount = s.freeCount + 30 := rfl

/-! the values of `MRE.PH` and of an entry of `MRE.BST` are exactly those of 3 and of 2 bits (R33) -/

/-- Every value of `MRE.PH` is one of 3 bits, and only one. -/
theorem phaseNumbered_bijective : Function.Bijective phaseNumbered := by
  refine ⟨by unfold Function.Injective; decide, ?_⟩
  rintro (_ | _ | _ | _ | k)
  · exact ⟨0#3, rfl⟩
  · exact ⟨1#3, rfl⟩
  · exact ⟨2#3, rfl⟩
  · exact ⟨3#3, rfl⟩
  · revert k; decide

/-- Every value of an entry of `MRE.BST` is one of 2 bits, and only one. -/
theorem baseStateNumbered_bijective : Function.Bijective baseStateNumbered := by
  refine ⟨by unfold Function.Injective; decide, ?_⟩
  rintro (_ | _ | _ | _)
  · exact ⟨0#2, rfl⟩
  · exact ⟨1#2, rfl⟩
  · exact ⟨2#2, rfl⟩
  · exact ⟨3#2, rfl⟩

/-! the status bits -/

@[simp] theorem statusAccepted_busy (st : Status) : (statusAccepted st).busy = true := rfl
@[simp] theorem statusAccepted_done (st : Status) : (statusAccepted st).done = false := rfl
@[simp] theorem statusAccepted_fMzero (st : Status) : (statusAccepted st).fMzero = st.fMzero := rfl
@[simp] theorem statusAccepted_fIllegal (st : Status) : (statusAccepted st).fIllegal = st.fIllegal := rfl
@[simp] theorem statusAccepted_fOverrun (st : Status) : (statusAccepted st).fOverrun = st.fOverrun := rfl
@[simp] theorem statusCompleted_busy (st : Status) : (statusCompleted st).busy = false := rfl
@[simp] theorem statusCompleted_done (st : Status) : (statusCompleted st).done = true := rfl
@[simp] theorem statusCompleted_fMzero (st : Status) : (statusCompleted st).fMzero = st.fMzero := rfl
@[simp] theorem statusCompleted_fIllegal (st : Status) : (statusCompleted st).fIllegal = st.fIllegal := rfl
@[simp] theorem statusCompleted_fOverrun (st : Status) : (statusCompleted st).fOverrun = st.fOverrun := rfl
@[simp] theorem statusFaulted_busy (c : Cause) (st : Status) : (statusFaulted c st).busy = false := by
  cases c <;> rfl
@[simp] theorem statusFaulted_done (c : Cause) (st : Status) : (statusFaulted c st).done = false := by
  cases c <;> rfl
@[simp] theorem anyFault_statusAccepted (st : Status) : anyFault (statusAccepted st) = anyFault st := rfl
@[simp] theorem anyFault_statusCompleted (st : Status) : anyFault (statusCompleted st) = anyFault st := rfl
@[simp] theorem anyFault_statusFaulted (c : Cause) (st : Status) : anyFault (statusFaulted c st) = true := by
  cases c <;> simp [statusFaulted, anyFault]

end Sys2Proof.Machine
end

