-- ==== Sys2Proof/Laws/Step.lean ====
section
/-! SUPPORT. What the shared operations, `exec`, a clock edge and a step can do, said once. -/

namespace Sys2Proof.Machine

/-- The command step of a legal word: nothing, a fault entry, or acceptance, each with its condition. -/
theorem commandOf_cases (i : Instr) (s : State) :
    (anyFault s.status = true ∧ commandOf i s = s) ∨
    (anyFault s.status = false ∧ s.status.busy = true ∧ commandOf i s = faultEntry .overrun s) ∨
    (anyFault s.status = false ∧ s.status.busy = false ∧ needsModulus i = true ∧ s.opm = 0#64 ∧
      commandOf i s = faultEntry .modulusZero s) ∨
    (anyFault s.status = false ∧ s.status.busy = false ∧ (needsModulus i = true → s.opm ≠ 0#64) ∧
      commandOf i s = accept (encode i) s) := by
  unfold commandOf
  cases hf : anyFault s.status <;> cases hb : s.status.busy <;> cases hm : needsModulus i <;>
    by_cases h0 : s.opm = 0#64 <;> simp [h0]

/-- The command step of a reserved word: nothing, or one of two fault entries. -/
theorem reservedCommand_cases (s : State) :
    (anyFault s.status = true ∧ reservedCommand s = s) ∨
    (anyFault s.status = false ∧ s.status.busy = true ∧ reservedCommand s = faultEntry .overrun s) ∨
    (anyFault s.status = false ∧ s.status.busy = false ∧ reservedCommand s = faultEntry .illegalCommand s) := by
  unfold reservedCommand
  cases hf : anyFault s.status <;> cases hb : s.status.busy <;> simp

/-- Every command's arm is its command step. -/
@[simp] theorem exec_eq (i : Instr) (s : State) : exec i s = .next (commandOf i s) := by
  cases i <;> rfl

/-- The state after the command step of any word. -/
def afterCommand (w : Word) (s : State) : State :=
  match decodeWord w with
  | some i => commandOf i s
  | none => reservedCommand s

theorem commandStep_eq (w : Word) (s : State) : commandStep w s = .next (afterCommand w s) := by
  unfold commandStep afterCommand
  cases decodeWord w <;> simp

/-- The state after the host transaction of an edge. -/
def afterHost (p : PortsIn) (s : State) : State :=
  if p.req then
    if p.we then (if p.idx = 3#3 then afterCommand p.wdata s else storeRegister p.idx p.wdata s)
    else readToLog p.idx s
  else s

theorem hostTransaction_eq (p : PortsIn) (s : State) : hostTransaction p s = .next (afterHost p s) := by
  unfold hostTransaction afterHost regWrite
  split
  · split
    · split
      · exact commandStep_eq _ _
      · rfl
    · rfl
  · rfl

/-- A clock edge: `Reset` alone, else the host's part and then the block's. -/
theorem clockEdge_eq (p : PortsIn) (s : State) :
    clockEdge p s = .next (if p.rst then resetEvent s else blockTurn (afterHost p s)) := by
  unfold clockEdge
  rw [hostTransaction_eq]
  split <;> rfl

/-- The state after a step. -/
def afterStep (s : State) : State :=
  match s.script with
  | [] => blockTurn s
  | .edge p :: rest =>
    if p.rst then resetEvent { s with script := rest } else blockTurn (afterHost p { s with script := rest })
  | .wait :: rest => pollWait rest s

/-- Every step answers a next state, this one. -/
theorem step_eq (s : State) : step s = .next (afterStep s) := by
  unfold step hostEdge afterStep
  rcases s.script with _ | ⟨_ | _, _⟩
  · exact clockEdge_eq _ _
  · exact clockEdge_eq _ _
  · rfl

/-- Taking a turn touches the schedule only. -/
theorem takeTurn_snd (s : State) :
    (takeTurn s).2 = { s with turns := (takeTurn s).2.turns, turnCount := (takeTurn s).2.turnCount } := by
  unfold takeTurn
  split <;> rfl

/-- The block's part of an edge: nothing outside phase BUSY; else it sits the edge out, which changes the schedule
only, or makes at least one level-B step. -/
theorem blockTurn_cases (s : State) :
    (s.status.busy = false ∧ blockTurn s = s) ∨
    (s.status.busy = true ∧ ∃ (ts : List Turn) (c : Nat),
      blockTurn s = { s with turns := ts, turnCount := c } ∨
      ∃ k, blockTurn s = blockSteps (k + 1) { s with turns := ts, turnCount := c }) := by
  unfold blockTurn
  cases hb : s.status.busy
  · exact .inl ⟨rfl, by simp⟩
  · refine .inr ⟨rfl, ?_⟩
    simp only [if_true]
    have h := takeTurn_snd s
    split
    · exact ⟨_, _, .inr ⟨_, congrArg (blockSteps _) h⟩⟩
    · exact ⟨⟨(takeTurn s).1.idle - 1, (takeTurn s).1.extra⟩ :: (takeTurn s).2.turns, (takeTurn s).2.turnCount,
        .inl (congrArg (fun u : State =>
          { u with turns := ⟨(takeTurn s).1.idle - 1, (takeTurn s).1.extra⟩ :: (takeTurn s).2.turns }) h)⟩

/-- A property every level-B step of a busy block keeps is kept by any number of them. -/
theorem blockSteps_keeps {P : State → Prop} (h : ∀ s, s.status.busy = true → P s → P (blockStep s)) :
    ∀ (k : Nat) (s : State), P s → P (blockSteps k s) := by
  intro k
  induction k with
  | zero => intro s hs; exact hs
  | succ k ih =>
    intro s hs
    simp only [blockSteps]
    split
    · exact ih _ (h s ‹_› hs)
    · exact hs

/-- The host's run after a step that goes on. -/
theorem run_of_next (M : Host.Core) (n : Nat) (s s' : M.State) (h : M.step s = .next s') :
    M.run (n + 1) s = M.run n s' := by
  simp only [Host.Core.run, h]

/-- A run of n + 1 steps is a step and a run of n. -/
theorem runsTo_succ (n : Nat) (s t : State) : runsTo (n + 1) s t ↔ runsTo n (afterStep s) t :=
  Iff.of_eq (congrArg (· = Host.Outcome.next t) (run_of_next Sys2Proof.core n s (afterStep s) (step_eq s)))

/-- No step leads nowhere else. -/
@[simp] theorem runsTo_zero (s t : State) : runsTo 0 s t ↔ s = t :=
  ⟨fun h => Host.Outcome.next.inj h, fun h => congrArg _ h⟩

end Sys2Proof.Machine
end

