-- ==== Sys2Proof/Tests/Slice0.lean ====
section
/-! SUPPORT. Tests of single operations against words and vectors the spec writes out, and for every statement with
hypotheses a concrete state that meets them all. -/

namespace Sys2Proof.Tests

open Sys2Proof Sys2Proof.Machine

/-! ## Well-formedness and decoding (spec/30_encoding.md R70 to R74, R79) -/

/-- R74: the reserved words 5, 6, 7 fail the check. -/
theorem test_wellformed_refuses_reserved_op :
    legalWord 5#64 = false ∧ legalWord 6#64 = false ∧ legalWord 7#64 = false := by decide

/-- R71: any bit of `ZERO` fails the check: bit 3, bit 63, all bits. -/
theorem test_wellformed_refuses_zero_field :
    legalWord 8#64 = false ∧ legalWord 0x8000000000000000#64 = false ∧
      legalWord 0xFFFFFFFFFFFFFFFF#64 = false := by decide

/-- R72: `MODADD` is 61 zeros, then `0b000`. -/
theorem test_decode_modadd : decodeWord (0#61 ++ 0b000#3) = some .modadd := by decide
/-- R72: `MODSUB` is 61 zeros, then `0b001`. -/
theorem test_decode_modsub : decodeWord (0#61 ++ 0b001#3) = some .modsub := by decide
/-- R72: `MODMUL` is 61 zeros, then `0b010`. -/
theorem test_decode_modmul : decodeWord (0#61 ++ 0b010#3) = some .modmul := by decide
/-- R72: `MODPOW` is 61 zeros, then `0b011`. -/
theorem test_decode_modpow : decodeWord (0#61 ++ 0b011#3) = some .modpow := by decide
/-- R72: `ISPRIME` is 61 zeros, then `0b100`. -/
theorem test_decode_isprime : decodeWord (0#61 ++ 0b100#3) = some .isprime := by decide

/-- R74: the reserved words. -/
theorem test_decode_reserved :
    decodeWord 5#64 = none ∧ decodeWord 6#64 = none ∧ decodeWord 7#64 = none ∧ decodeWord 8#64 = none ∧
      decodeWord 0x8000000000000002#64 = none ∧ decodeWord 0xFFFFFFFFFFFFFFFF#64 = none := by decide

/-- spec/opcode_table.json: the words as the table numbers them, and a reserved one. -/
theorem test_decode_table_word :
    decodeTableWord 64 0 = some .modadd ∧ decodeTableWord 64 3 = some .modpow ∧
      decodeTableWord 64 4 = some .isprime ∧ decodeTableWord 64 5 = none ∧
      decodeTableWord 64 0x100000000 = none := by decide

/-- R79: `RD STATUS` is `0x40000000000000000`, `RD RESULT` is `0x50000000000000000`, `WR OPM, v` is `0xA` and v. -/
theorem test_transaction_words :
    transactionWord ⟨false, 4#3, 0#64⟩ = 0x40000000000000000#68 ∧
      transactionWord ⟨false, 5#3, 0#64⟩ = 0x50000000000000000#68 ∧
      transactionWord ⟨true, 2#3, 0x123456789ABCDEF0#64⟩ = 0xA123456789ABCDEF0#68 := by decide

/-! ## The functions (vectors of spec/95_test_vectors.md) -/

/-- Section 1: both branches, and the top of the word. -/
theorem test_modadd_contract :
    ADDM 3#64 4#64 10#64 = 7#64 ∧ ADDM 7#64 5#64 10#64 = 2#64 ∧
      ADDM 0xFFFFFFFFFFFFFFFE#64 0xFFFFFFFFFFFFFFFE#64 0xFFFFFFFFFFFFFFFF#64 = 0xFFFFFFFFFFFFFFFD#64 := by decide
/-- Section 1: outside the precondition, not the mathematical sum. -/
theorem test_modadd_outside :
    ADDM 0xFFFFFFFFFFFFFFFF#64 11#64 10#64 = 0#64 ∧ ADDM 2#64 0xFFFFFFFFFFFFFFFF#64 0xFFFFFFFFFFFFFFFE#64 = 1#64 := by
  decide
/-- Section 2: a < b, and the intermediate sum wrapping. -/
theorem test_modsub_contract :
    SUBM 5#64 7#64 10#64 = 8#64 ∧
      SUBM 0xFFFFFFFFFFFFFFFD#64 0xFFFFFFFFFFFFFFFE#64 0xFFFFFFFFFFFFFFFF#64 = 0xFFFFFFFFFFFFFFFE#64 := by decide
/-- Section 2: outside the contract. -/
theorem test_modsub_outside :
    SUBM 3#64 25#64 10#64 = 4#64 ∧ SUBM 1#64 0xFFFFFFFFFFFFFFFF#64 0xFFFFFFFFFFFFFFFD#64 = 2#64 := by decide
/-- Section 3. -/
theorem test_modmul :
    MULM 7#64 13#64 10#64 = 1#64 ∧ MULM 0xFFFFFFFFFFFFFFC4#64 3#64 0xFFFFFFFFFFFFFFC5#64 = 0xFFFFFFFFFFFFFFC2#64 := by
  decide +kernel
/-- Section 3, the trace of `MULM(7, 13, 10)` after its second iteration. -/
theorem test_modmul_trace : mulIterations 2 (mulLoad 7#64 13#64 10#64) = ⟨10#64, 8#64, 3#64, 7#64⟩ := by decide +kernel
/-- Section 4, with the value outside the range at m = 1, b = 0. -/
theorem test_modpow :
    POWM 2#64 10#64 1000#64 = 24#64 ∧ POWM 5#64 0#64 1#64 = 1#64 ∧ POWM 5#64 3#64 1#64 = 0#64 := by decide +kernel
/-- Section 4, the trace of `POWM(2, 10, 1000)` after its second iteration. -/
theorem test_modpow_trace :
    (powIterations 2 (powLoad 2#64 10#64 1000#64) ⟨0#64, 0#64, 0#64, 0#64⟩).1 = ⟨1000#64, 16#64, 2#64, 4#64⟩ := by
  decide +kernel
/-- Section 0.2: the Carmichael number 561, and the prime 97. -/
theorem test_isprime : MRV 561#64 = false ∧ MRV 97#64 = true := by decide +kernel
/-- Section 5.1. -/
theorem test_isprime_trivial :
    MRV 0#64 = false ∧ MRV 1#64 = false ∧ MRV 2#64 = true ∧ MRV 3#64 = true ∧ MRV 4#64 = false := by decide +kernel

/-! ## States -/

/-- IDLE-EMPTY with operands 7, 5, 10; the block moves at every edge. -/
def idle : State := { State.reset with opa := 7#64, opb := 5#64, opm := 10#64, turns := [⟨0, 0⟩, ⟨0, 0⟩] }
/-- The same with `OPM = 0`. -/
def idleZero : State := { idle with opm := 0#64 }
/-- The command just accepted. -/
def running (i : Instr) : State := accept (encode i) idle
/-- IDLE-DONE after `MODADD`: `RESULT` = 2. -/
def finished : State := complete 2#64 (running .modadd)
/-- FAULTED by `Overrun`. -/
def faulted : State := faultEntry .overrun (running .modmul)
/-- `ISPRIME` on n = 17 (d = 1, r = 4) inside the inner loop of its first base, x = 2, two squarings left of 3: x = 4. -/
def squaring : State :=
  { running .isprime with
    opm := 17#64, lm := 17#64, loaded := true
    mre := ⟨17#64, 1#64, 4#6, 0#4, 4#64, 2#6, .square, Vector.replicate 12 .untested⟩ }
/-- MUL of `MODMUL` after its first iteration: 7 * 5 mod 10. -/
def multiplying : State := { running .modmul with loaded := true, mul := ⟨10#64, 4#64, 2#64, 7#64⟩ }
/-- The host is about to poll. -/
def polling (s : State) : State := { s with script := [.wait, stmtRD 5#3] }

/-! ## One step each (spec/95_test_vectors.md section 6, spec/30_encoding.md R75) -/

/-- R75, R206: a modular command with `OPM = 0` sets `F_MZERO` only; a reserved word wins over it. -/
theorem test_faults_idle :
    (commandOf .modadd idleZero).status = ⟨false, false, true, false, false⟩ ∧
      (reservedCommand idleZero).status = ⟨false, false, false, true, false⟩ ∧
      (commandOf .isprime idleZero).status = ⟨true, false, false, false, false⟩ := by decide
/-- R203: any command while busy is `Overrun`, also with `OPM = 0`. -/
theorem test_overrun :
    (commandOf .modadd { running .modmul with opm := 0#64 }).status = ⟨false, false, false, false, true⟩ := by decide
/-- R240: `Reset` in phase FAULTED. -/
theorem test_reset_clears_fault : (resetEvent faulted).status = ⟨false, false, false, false, false⟩ := by rfl
/-- R41, R240: a read presented at a resetting edge is lost: nothing is logged, and nothing is said of `rdata`. -/
theorem test_read_lost_at_reset :
    rdataOut { portsRead 5#3 with rst := true } finished = none ∧ rdataOut (portsRead 5#3) finished = some 2#64 ∧
      clockEdge { portsRead 5#3 with rst := true } finished = .next (resetEvent finished) :=
  ⟨rfl, rfl, rfl⟩
/-- The word `MODMUL` in the host's hands is accepted by the very next step (its block step of that edge loads MUL). -/
theorem test_step_runs_fetch_word :
    step (idle.withFetchWord 64 2) = .next (blockTurn (accept 2#64 idle)) := by rfl
/-- R29: `MODADD` 7, 5, 10 completes with 2. -/
theorem test_modadd_completes : (blockStep (running .modadd)).result = 2#64 := by decide +kernel
/-- R29: `MODSUB` 7, 5, 10 completes with 2. -/
theorem test_modsub_completes : (blockStep (running .modsub)).result = 2#64 := by decide +kernel
/-- R122: the load step of MUL. -/
theorem test_modmul_loads : (blockStep (running .modmul)).mul = ⟨10#64, 7#64, 5#64, 0#64⟩ := by decide +kernel
/-- R137: the load step of POW. -/
theorem test_modpow_loads : (blockStep (running .modpow)).pow = ⟨10#64, 7#64, 5#64, 1#64⟩ := by decide +kernel
/-- R158: a squaring step on n = 17: 4 * 4 = 16 = n - 1, so base 0 is a probable prime and the next base follows. -/
theorem test_isprime_squares :
    (blockStep squaring).mre.x = 16#64 ∧ (blockStep squaring).mre.j = 1#6 ∧ (blockStep squaring).mre.i = 1#4 ∧
      (blockStep squaring).mre.ph = .base ∧ (blockStep squaring).mre.bst[0] = .probablePrime := by decide +kernel

/-- R33, R160: 3 bits hold the four phases beside four other values, 2 bits the three states beside one. -/
theorem test_mre_widths :
    (List.range 8).map (fun v => phaseNumbered (BitVec.ofNat 3 v)) =
        [.classify, .decomp, .base, .square, .unnamed 0, .unnamed 1, .unnamed 2, .unnamed 3] ∧
      (List.range 4).map (fun v => baseStateNumbered (BitVec.ofNat 2 v)) =
        [.untested, .probablePrime, .composite, .unnamed] := by decide

/-! ## Witnesses: for every statement with hypotheses, a state that meets them -/

/-- `ResetEdgeClearsTheBlock`. -/
theorem witness_reset_edge : portsReset.rst = true ∧ ({ portsWrite 3#3 0#64 with rst := true } : PortsIn).rst = true := by
  decide
/-- `ResetForgetsThePast`: two states with different pasts. -/
theorem witness_reset_forgets :
    portsReset.rst = true ∧ (running .modmul).script = faulted.script ∧ (running .modmul).readLog = faulted.readLog ∧
      (running .modmul).turns = faulted.turns ∧ (running .modmul).turnCount = faulted.turnCount ∧
      (running .modmul).freeCount = faulted.freeCount ∧ running .modmul ≠ faulted := by decide
/-- `StepRunsTheDecodedCommand`: a legal and a reserved word at the head of the script. -/
theorem witness_step_runs :
    ({ idle with script := [.edge (portsWrite 3#3 4#64), .wait] } : State).script = .edge (portsWrite 3#3 4#64) :: [.wait] ∧
      decodeWord 4#64 = some .isprime ∧
      ({ idle with script := [.edge (portsWrite 3#3 5#64)] } : State).script = .edge (portsWrite 3#3 5#64) :: [] ∧
      decodeWord 5#64 = none := by decide
/-- `CommandStepIsTheSpecs`: each of the five cases, at the boundary words 4, 5, 3 and `ZERO` bit 3. -/
theorem witness_command_step :
    anyFault faulted.status = true ∧
    (anyFault (running .modmul).status = false ∧ (running .modmul).status.busy = true) ∧
    (anyFault idle.status = false ∧ idle.status.busy = false ∧ 4 < ((5#64).extractLsb' 0 3).toNat ∧
      (8#64).extractLsb' 3 61 ≠ 0#61) ∧
    ((3#64).extractLsb' 3 61 = 0#61 ∧ ((3#64).extractLsb' 0 3).toNat ≤ 3 ∧ idleZero.opm = 0#64 ∧
      anyFault idleZero.status = false ∧ idleZero.status.busy = false) ∧
    ((4#64).extractLsb' 3 61 = 0#61 ∧ ((4#64).extractLsb' 0 3).toNat ≤ 4 ∧ ¬((4#64).extractLsb' 0 3).toNat ≤ 3 ∧
      ((3#64).extractLsb' 0 3).toNat ≤ 4 ∧ idle.opm ≠ 0#64) := by decide
/-- `ModularCommandsAreAccepted`, `IsprimeIsAccepted`, `AdderOutsideItsContract`, `SubtractorOutsideItsContract`: an idle
block in either idle phase. -/
theorem witness_idle :
    Idle idle ∧ idle.opm ≠ 0#64 ∧ Idle finished ∧ finished.opm ≠ 0#64 ∧ Idle idleZero := by
  unfold Idle; decide
/-- `CommandsTrapAsTheSpecSays`: its three clauses. -/
theorem witness_traps :
    (Instr.modpow ≠ .isprime ∧ Idle idleZero ∧ idleZero.opm = 0#64) ∧
      (anyFault (running .isprime).status = false ∧ (running .isprime).status.busy = true) ∧
      anyFault faulted.status = true := by
  unfold Idle; decide
/-- `CommandsLeaveTheRestAlone`: a command that is accepted and one that faults. -/
theorem witness_frame :
    exec .modmul idle = .next (running .modmul) ∧ (running .modmul).status.busy = true ∧ idle.status.busy = false ∧
      exec .modmul idleZero = .next (faultEntry .modulusZero idleZero) ∧
      (faultEntry .modulusZero idleZero).status.busy = false :=
  ⟨rfl, rfl, rfl, rfl, rfl⟩
/-- `RegReadReturnsTheSpecsValue`: the cases of index 5. -/
theorem witness_read_result :
    (running .modmul).status.busy = true ∧ anyFault faulted.status = true ∧
      (finished.status.busy = false ∧ anyFault finished.status = false) ∧
      (idle.status.busy = false ∧ anyFault idle.status = false) := by decide
/-- `ReadSeesTheStateBeforeTheEdge`: an addition that completes at the edge of the read. -/
theorem witness_read_edge :
    (running .modadd).status.busy = true ∧ ∃ t, clockEdge (portsRead 5#3) (running .modadd) = .next t :=
  ⟨rfl, _, rfl⟩
/-- `WaitPollsStatus`: `DONE` set, a fault bit set, neither. -/
theorem witness_wait :
    ((polling finished).script = .wait :: [stmtRD 5#3] ∧ (polling finished).status.done = true ∧
      ∃ t, step (polling finished) = .next t) ∧
    ((polling faulted).script = .wait :: [stmtRD 5#3] ∧ anyFault (polling faulted).status = true ∧
      ∃ t, step (polling faulted) = .next t) ∧
    ((polling (running .modmul)).script = .wait :: [stmtRD 5#3] ∧ (polling (running .modmul)).status.done = false ∧
      anyFault (polling (running .modmul)).status = false ∧ ∃ t, step (polling (running .modmul)) = .next t) :=
  ⟨⟨rfl, rfl, _, step_eq _⟩, ⟨rfl, rfl, _, step_eq _⟩, ⟨rfl, rfl, rfl, _, step_eq _⟩⟩
/-- `OnlyTheFourPhasesOccur`: each phase occurs, and a step goes on from each. -/
theorem witness_phases :
    phaseOf idle.status = some .idleEmpty ∧ phaseOf (running .modpow).status = some .busy ∧
      phaseOf finished.status = some .idleDone ∧ phaseOf faulted.status = some .faulted ∧
      PhaseLegal faulted ∧ (∃ t, step faulted = .next t) ∧ anyFault faulted.status = true :=
  ⟨rfl, rfl, rfl, rfl, rfl, ⟨_, step_eq _⟩, rfl⟩
/-- `FaultBitsAreSticky`: a faulted block at an edge without reset, and at one with reset. -/
theorem witness_sticky :
    ((∃ t, step faulted = .next t) ∧ (∀ p rest, faulted.script = .edge p :: rest → p.rst = false) ∧
      faulted.status.fOverrun = true ∧ anyFault faulted.status = true) ∧
    ({ faulted with script := [stmtRESET] } : State).script = .edge portsReset :: [] ∧ portsReset.rst = true :=
  ⟨⟨⟨_, step_eq _⟩, fun _ _ h => (by cases h), rfl, rfl⟩, rfl, rfl⟩
/-- `FaultedBlockIsQuiescent`: a command, an operand write and a read in phase FAULTED. -/
theorem witness_quiescent :
    phaseOf faulted.status = some .faulted ∧ (portsWrite 3#3 0#64).rst = false ∧
      (∃ t, clockEdge (portsWrite 3#3 0#64) faulted = .next t) ∧
      (∃ t, clockEdge (portsWrite 2#3 9#64) faulted = .next t) ∧ (∃ t, clockEdge (portsRead 5#3) faulted = .next t) :=
  ⟨rfl, rfl, ⟨_, rfl⟩, ⟨_, rfl⟩, ⟨_, rfl⟩⟩
/-- `OnlyCommandWritesFault`: each of the three causes. -/
theorem witness_causes :
    (∃ t, clockEdge (portsWrite 3#3 5#64) idle = .next t ∧ anyFault idle.status = false ∧ t.status.fIllegal = true ∧
      anyFault t.status = true) ∧
    (∃ t, clockEdge (portsWrite 3#3 0#64) idleZero = .next t ∧ anyFault idleZero.status = false ∧
      t.status.fMzero = true ∧ anyFault t.status = true) ∧
    ∃ t, clockEdge (portsWrite 3#3 0#64) (running .modmul) = .next t ∧ anyFault (running .modmul).status = false ∧
      t.status.fOverrun = true ∧ anyFault t.status = true :=
  ⟨⟨_, rfl, rfl, rfl, rfl⟩, ⟨_, rfl, rfl, rfl, rfl⟩, ⟨_, rfl, rfl, rfl, rfl⟩⟩
/-- `BlockStepsLeaveTheHostSideAlone`: a multiplication still running after its load step and its first iteration. -/
theorem witness_still_running :
    (blockSteps 1 (running .modmul)).status.busy = true ∧ (blockSteps 2 (running .modmul)).status.busy = true := by
  decide +kernel
/-- `OperandWritesDoNotDisturb`: the three operand registers, while a command runs. -/
theorem witness_operand_writes :
    (0#3).toNat < 3 ∧ (1#3).toNat < 3 ∧ (2#3).toNat < 3 ∧ (storeRegister 2#3 0#64 (running .modmul)).opm = 0#64 ∧
      (running .modmul).status.busy = true := by decide
/-- `CompletedResultStays`: a read of `RESULT`, an operand write and an edge without a request, when done. -/
theorem witness_done_stays :
    phaseOf finished.status = some .idleDone ∧ QuietPorts (portsRead 5#3) ∧ QuietPorts (portsWrite 0#3 1#64) ∧
      QuietPorts portsIdle ∧ (∃ t, clockEdge (portsRead 5#3) finished = .next t) :=
  ⟨rfl, by unfold QuietPorts; decide, by unfold QuietPorts; decide, by unfold QuietPorts; decide, ⟨_, rfl⟩⟩
/-- `DoneIsNeverStale`: after `MODADD` the next edge may find the block done or, sitting out, still busy. -/
theorem witness_not_stale :
    (Idle finished ∧ decodeWord (portsWrite 3#3 0#64).wdata = some .modadd ∧ finished.opm ≠ 0#64 ∧
      ∃ t, clockEdge (portsWrite 3#3 0#64) finished = .next t ∧ t.status.done = true) ∧
    (Idle { finished with turns := [⟨1, 0⟩] } ∧
      ∃ t, clockEdge (portsWrite 3#3 0#64) { finished with turns := [⟨1, 0⟩] } = .next t ∧ t.status.busy = true) :=
  ⟨⟨⟨rfl, rfl⟩, rfl, by decide, ⟨_, rfl, rfl⟩⟩, ⟨rfl, rfl⟩, ⟨_, rfl, rfl⟩⟩
/-- `AddAndSubCompleteInOneStep`. -/
theorem witness_add_sub_running :
    (running .modadd).status.busy = true ∧ (running .modadd).cmd = 0#64 ∧ (running .modsub).status.busy = true ∧
      (running .modsub).cmd = 1#64 := by decide
/-- `MulTakesBitlenPlusTwoSteps`, `PowTakesBitlenPlusTwoSteps`, with LB = 5 and with LB = 0. -/
theorem witness_mul_pow_running :
    ((running .modmul).status.busy = true ∧ (running .modmul).cmd = 2#64 ∧ (running .modmul).loaded = false ∧
      (running .modmul).lm ≠ 0#64 ∧ (running .modmul).lb = 5#64) ∧
    ((running .modpow).status.busy = true ∧ (running .modpow).cmd = 3#64 ∧ (running .modpow).loaded = false ∧
      (running .modpow).lm ≠ 0#64 ∧ (accept 2#64 { idle with opb := 0#64 }).lb = 0#64) := by decide
/-- `IsprimeReachesItsVerdict`: the trivial inputs 4 and 10, the smallest other one, 5, and the largest word. -/
theorem witness_isprime_running :
    ((running .isprime).status.busy = true ∧ (running .isprime).cmd = 4#64 ∧ (running .isprime).loaded = false ∧
      (running .isprime).lm.toNat % 2 = 0) ∧
    (accept 4#64 { idle with opm := 4#64 }).lm.toNat < 5 ∧
    (5 ≤ (accept 4#64 { idle with opm := 5#64 }).lm.toNat ∧ (accept 4#64 { idle with opm := 5#64 }).lm.toNat % 2 = 1) ∧
    (5 ≤ (0xFFFFFFFFFFFFFFFF#64).toNat ∧ (0xFFFFFFFFFFFFFFFF#64).toNat % 2 = 1) := by decide
/-- `AdderMeetsItsContract`: both branches at their border, a = s and a = s - 1 for b = 5, m = 10. -/
theorem witness_adder_contract :
    (1 ≤ (10#64).toNat ∧ (5#64).toNat < (10#64).toNat ∧ 5#64 ≥ sub64 10#64 5#64) ∧
      ((4#64).toNat < (10#64).toNat ∧ ¬(4#64 ≥ sub64 10#64 5#64)) ∧
      (1 ≤ (1#64).toNat ∧ (0#64).toNat < (1#64).toNat) := by decide
/-- `AdderOutsideItsContract`: b = m; b = m + 1 with the sum 2^64 - 1; b = m + 1 with the sum 2^64; m a power of two. -/
theorem witness_adder_outside :
    (10#64 ≠ 0#64 ∧ (10#64).toNat ≤ (10#64).toNat) ∧
      ((10#64).toNat < (11#64).toNat ∧ (0xFFFFFFFFFFFFFFF4#64).toNat + (11#64).toNat < 2 ^ 64) ∧
      2 ^ 64 ≤ (0xFFFFFFFFFFFFFFF5#64).toNat + (11#64).toNat ∧ (16#64).toNat = 2 ^ 4 := by decide
/-- `SubtractorMeetsItsContract`: a = b; b - a = m; both operands below m. -/
theorem witness_subtractor_contract :
    1 ≤ (10#64).toNat ∧ (3#64).toNat ≤ (3#64).toNat ∧ (13#64).toNat - (3#64).toNat ≤ (10#64).toNat ∧
      (3#64).toNat < (10#64).toNat ∧ (9#64).toNat < (10#64).toNat := by decide
/-- `SubtractorOutsideItsContract`: b - a = m + 1. -/
theorem witness_subtractor_outside :
    10#64 ≠ 0#64 ∧ (3#64).toNat < (14#64).toNat ∧ (10#64).toNat < (14#64).toNat - (3#64).toNat := by decide
/-- `ResultsLieBelowTheModulus`, `AddAndSubLaws`, `MultiplierLaws`, `ExponentiatorLaws`: moduli 1, 2 and 10. -/
theorem witness_moduli :
    1#64 ≠ 0#64 ∧ 2#64 ≠ 0#64 ∧ 2 ≤ (2#64).toNat ∧ 3#64 ≠ 0#64 ∧ (7#64 < 10#64 ∧ 9#64 < 10#64 ∧ 10#64 ≠ 0#64) ∧
      (0xFFFFFFFFFFFFFFFE#64).toNat + 1 < 2 ^ 64 := by decide
/-- `MultiplierIsExact`: the registers of the trace of `MULM(7, 13, 10)` after its first iteration. -/
theorem witness_multiplier_loop :
    10#64 ≠ 0#64 ∧ (⟨10#64, 4#64, 6#64, 7#64⟩ : MulRegs).b ≠ 0#64 ∧ 4#64 < 10#64 ∧ 7#64 < 10#64 ∧
      ((7#64).toNat + (4#64).toNat * (6#64).toNat) % (10#64).toNat =
        (7#64).toNat * (13#64).toNat % (10#64).toNat := by decide
/-- `ExponentiatorIsExact`: the registers of the trace of `POWM(3, 5, 7)` after its first iteration. -/
theorem witness_exponentiator_loop :
    2 ≤ (7#64).toNat ∧ (⟨7#64, 2#64, 2#64, 3#64⟩ : PowRegs).b ≠ 0#64 ∧ 2#64 < 7#64 ∧ 3#64 < 7#64 ∧
      (3#64).toNat * (2#64).toNat ^ (2#64).toNat % (7#64).toNat =
        (3#64).toNat ^ (5#64).toNat % (7#64).toNat := by decide
/-- `TrivialInputsAreClassified`: registers holding 4, 3 and 6; an even word; the first input that is not trivial. -/
theorem witness_trivial :
    ({ idle with mre := { idle.mre with n := 3#64 } } : State).mre.n.toNat < 5 ∧
      ({ idle with mre := { idle.mre with n := 6#64 } } : State).mre.n.toNat % 2 = 0 ∧ 4 ≤ (4#64).toNat ∧
      (4#64).toNat % 2 = 0 ∧ 5 ≤ (5#64).toNat ∧ (5#64).toNat % 2 = 1 := by decide
/-- `DecompositionIsTheUniqueOne`: n = 5 = 1 * 2^2 + 1 and n = 2^63 + 1. -/
theorem witness_decomposition :
    (5 ≤ (5#64).toNat ∧ (5#64).toNat % 2 = 1 ∧ (5#64).toNat - 1 = 1 * 2 ^ 2) ∧
      (5 ≤ (0x8000000000000001#64).toNat ∧ (0x8000000000000001#64).toNat % 2 = 1 ∧
        (0x8000000000000001#64).toNat = 2 ^ 63 + 1) := by decide
/-- `EligibleBasesAreTheSpecs`: base 2 and base 3 of n = 5, the last base of n = 39. -/
theorem witness_eligible : eligible 5#64 0 ∧ eligible 5#64 1 ∧ ¬eligible 5#64 2 ∧ eligible 39#64 11 := by
  unfold eligible tableBase; decide
/-- `VerdictIsTheStrongTest`: for n = 9, base 2 is eligible, 8 = 1 * 2^3, and it is a witness (spec/95_test_vectors.md
section 0.2). -/
theorem witness_strong_test :
    (9#64).toNat - 1 = 1 * 2 ^ 3 ∧ 1 % 2 = 1 ∧ eligible 9#64 0 ∧ witnesses (tableBase 0).toNat 1 3 (9#64).toNat := by
  refine ⟨by decide, by decide, by unfold eligible tableBase; decide, by decide, by decide, ?_⟩
  intro k h1 h2
  have : k = 1 ∨ k = 2 := by omega
  rcases this with rfl | rfl <;> decide
/-- `PrimesGetVerdictOne`: 97 (spec/95_test_vectors.md section 0.2). -/
theorem witness_prime : Nat.Prime (97#64).toNat := by
  show Nat.Prime 97; norm_num

/-- The registers of a running command that has not loaded fit it. -/
theorem inv_running_modmul : Inv (running .modmul) :=
  ⟨rfl, rfl, fun _ => ⟨.modmul, rfl, ⟨fun _ => by decide, fun h => Bool.noConfusion h⟩, rfl⟩, fun h => Bool.noConfusion h⟩
/-- The registers of MUL inside a multiplication fit it. -/
theorem inv_multiplying : Inv multiplying := by
  refine ⟨rfl, rfl, fun _ => ⟨.modmul, rfl, ⟨fun _ => by decide, fun _ => ?_⟩, by decide +kernel⟩, fun h => Bool.noConfusion h⟩
  exact ⟨rfl, by decide, by decide⟩
/-- The registers of MRE inside the inner loop fit it. -/
theorem inv_squaring : Inv squaring := by
  refine ⟨rfl, rfl, fun _ => ⟨.isprime, rfl, ⟨fun h => Bool.noConfusion h, fun _ => ⟨rfl, ?_⟩⟩, by decide +kernel⟩,
    fun h => Bool.noConfusion h⟩
  refine ⟨?_, ⟨by decide, by decide, by decide⟩, by decide, by decide, by decide, ?_⟩
  · unfold bstProgress; decide
  · unfold basesEligible eligible tableBase; decide
/-- A completed command delivers its value. -/
theorem inv_finished : Inv finished := by
  refine ⟨rfl, rfl, fun h => Bool.noConfusion h, fun _ => ⟨.modadd, rfl, by decide +kernel, fun h => by cases h⟩⟩
/-- A faulted block owes nothing. -/
theorem inv_faulted : Inv faulted := ⟨rfl, rfl, fun h => Bool.noConfusion h, fun h => Bool.noConfusion h⟩

/-- `EveryStepKeepsTheInvariant`: running, inside MUL, inside MRE, done and faulted. -/
theorem witness_invariant :
    (Inv (running .modmul) ∧ ∃ t, step (running .modmul) = .next t) ∧
      (Inv multiplying ∧ ∃ t, step multiplying = .next t) ∧ (Inv squaring ∧ ∃ t, step squaring = .next t) ∧
      (Inv finished ∧ ∃ t, step finished = .next t) ∧ (Inv faulted ∧ ∃ t, step faulted = .next t) :=
  ⟨⟨inv_running_modmul, _, step_eq _⟩, ⟨inv_multiplying, _, step_eq _⟩, ⟨inv_squaring, _, step_eq _⟩,
    ⟨inv_finished, _, step_eq _⟩, ⟨inv_faulted, _, step_eq _⟩⟩
/-- `EveryRunningCommandCompletes`: a multiplication while the host writes an operand and polls. -/
theorem witness_completes :
    Inv multiplying ∧ multiplying.status.busy = true ∧ decodeWord multiplying.cmd = some .modmul ∧
      QuietScript multiplying.script ∧ QuietScript [stmtWR 0#3 1#64, .wait, stmtRD 5#3] := by
  refine ⟨inv_multiplying, rfl, rfl, fun p h => (by cases h), fun p h => ?_⟩
  simp only [stmtWR, stmtRD, List.mem_cons, HostStmt.edge.injEq, reduceCtorEq, false_or, List.not_mem_nil, or_false] at h
  unfold QuietPorts
  rcases h with rfl | rfl <;> decide
/-- `EveryCommandDeliversItsValue`. -/
theorem witness_delivers :
    Idle idle ∧ (Instr.modpow ≠ .isprime → idle.opm ≠ 0#64) ∧ idle.script = [] ∧ Idle idleZero ∧ idleZero.script = [] := by
  unfold Idle; decide
/-- `PseudoInstructionDeliversItsValue`: `MODMUL 7, 13, 10` and `ISPRIME 0` as whole scripts. -/
theorem witness_pseudo :
    (Idle { idle with script := pseudoInstruction .modmul 7#64 13#64 10#64 ++ [stmtRD 4#3] } ∧ 10#64 ≠ 0#64 ∧
      ({ idle with script := pseudoInstruction .modmul 7#64 13#64 10#64 ++ [stmtRD 4#3] } : State).script =
        pseudoInstruction .modmul 7#64 13#64 10#64 ++ [stmtRD 4#3]) ∧
    (Idle { idle with script := pseudoInstruction .isprime 0#64 0#64 0#64 } ∧
      ({ idle with script := pseudoInstruction .isprime 0#64 0#64 0#64 } : State).script =
        pseudoInstruction .isprime 0#64 0#64 0#64 ++ []) := by
  unfold Idle; decide
/-- `HiddenRegistersNeverShow`: two idle states with different hidden registers, and a run of each. -/
theorem witness_hidden :
    idle.status.busy = false ∧ sameButHidden idle { idle with la := 9#64, mul := ⟨1#64, 2#64, 3#64, 4#64⟩ } ∧
      (∃ u, runsTo 1 idle u) ∧ ∃ v, runsTo 1 { idle with la := 9#64, mul := ⟨1#64, 2#64, 3#64, 4#64⟩ } v :=
  ⟨rfl, rfl, ⟨_, (runsTo_succ 0 _ _).mpr ((runsTo_zero _ _).mpr rfl)⟩,
    ⟨_, (runsTo_succ 0 _ _).mpr ((runsTo_zero _ _).mpr rfl)⟩⟩

end Sys2Proof.Tests
end

/-! PROOF of O18. The phase of R27 as a condition on the bits of `STATUS`, what each event of the block does to the
phase, and from these that every step keeps the phase one of the four. -/

namespace Sys2Proof.Machine

/-- R27's table as a condition on the bits: the four phases are the only statuses that meet it. -/
theorem phaseOf_isSome_iff (st : Status) :
    (phaseOf st).isSome = true ↔
      ¬(st.busy = true ∧ st.done = true) ∧ faultBits st ≤ 1 ∧
        (anyFault st = true → st.busy = false ∧ st.done = false) := by
  obtain ⟨busy, done, mzero, illegal, overrun⟩ := st
  revert busy done mzero illegal overrun
  decide

/-! ## The phase each event of the block enters -/

theorem faultBits_eq_zero {st : Status} (h : anyFault st = false) : faultBits st = 0 := by
  simp_all [anyFault, faultBits]

theorem faultBits_statusFaulted {st : Status} (c : Cause) (h : anyFault st = false) :
    faultBits (statusFaulted c st) = 1 := by
  cases c <;> simp_all [anyFault, faultBits, statusFaulted]

theorem phaseOf_statusAccepted {st : Status} (h : anyFault st = false) :
    phaseOf (statusAccepted st) = some .busy := by
  have h0 : faultBits (statusAccepted st) = 0 := faultBits_eq_zero h
  simp [phaseOf, h0]

theorem phaseOf_statusCompleted {st : Status} (h : anyFault st = false) :
    phaseOf (statusCompleted st) = some .idleDone := by
  have h0 : faultBits (statusCompleted st) = 0 := faultBits_eq_zero h
  simp [phaseOf, h0]

theorem phaseOf_statusFaulted {st : Status} (c : Cause) (h : anyFault st = false) :
    phaseOf (statusFaulted c st) = some .faulted := by
  simp [phaseOf, faultBits_statusFaulted c h]

theorem phaseLegal_of_phaseOf {s : State} {ph : Phase} (h : phaseOf s.status = some ph) : PhaseLegal s :=
  Option.isSome_of_eq_some h

theorem phaseLegal_congr {s t : State} (h : t.status = s.status) : PhaseLegal t ↔ PhaseLegal s := by
  unfold PhaseLegal; rw [h]

theorem phaseLegal_accept (w : Word) {s : State} (h : anyFault s.status = false) : PhaseLegal (accept w s) :=
  phaseLegal_of_phaseOf (phaseOf_statusAccepted h)

theorem phaseLegal_faultEntry (c : Cause) {s : State} (h : anyFault s.status = false) :
    PhaseLegal (faultEntry c s) :=
  phaseLegal_of_phaseOf (phaseOf_statusFaulted c h)

theorem phaseLegal_resetEvent (s : State) : PhaseLegal (resetEvent s) :=
  phaseLegal_of_phaseOf (ph := .idleEmpty) rfl

/-- In a legal phase a busy block has no fault recorded. -/
theorem PhaseLegal.anyFault_of_busy {s : State} (h : PhaseLegal s) (hb : s.status.busy = true) :
    anyFault s.status = false := by
  obtain ⟨-, -, hfault⟩ := (phaseOf_isSome_iff s.status).mp h
  refine Bool.eq_false_of_not_eq_true fun hf => ?_
  obtain ⟨hidle, -⟩ := hfault hf
  exact Bool.noConfusion (hb.symm.trans hidle)

/-! ## The block's part of an edge -/

/-- The status of u is that of s, or that of s after `Complete` (R29). -/
def StatusKeptOrCompleted (s u : State) : Prop :=
  u.status = s.status ∨ u.status = statusCompleted s.status

theorem blockModmul_status (s : State) : StatusKeptOrCompleted s (blockModmul s) := by
  unfold blockModmul
  split_ifs
  · exact .inl rfl
  · exact .inl rfl
  · exact .inr rfl

theorem blockModpow_status (s : State) : StatusKeptOrCompleted s (blockModpow s) := by
  unfold blockModpow
  split_ifs
  · exact .inl rfl
  · exact .inl rfl
  · exact .inr rfl

theorem mreClassify_status (s : State) : StatusKeptOrCompleted s (mreClassify s) := by
  unfold mreClassify
  split_ifs
  · exact .inr rfl
  · exact .inr rfl
  · exact .inr rfl
  · exact .inl rfl

theorem mreHalve_status (s : State) : (mreHalve s).status = s.status := by
  unfold mreHalve
  split <;> rfl

theorem mreBase_status (s : State) : StatusKeptOrCompleted s (mreBase s) := by
  unfold mreBase
  dsimp only
  split_ifs
  · exact .inr rfl
  · exact .inr rfl
  · exact .inl rfl
  · exact .inl rfl

theorem mreSquare_status (s : State) : StatusKeptOrCompleted s (mreSquare s) := by
  unfold mreSquare
  dsimp only
  split_ifs
  · exact .inr rfl
  · exact .inl rfl
  · exact .inl rfl

theorem blockIsprime_status (s : State) : StatusKeptOrCompleted s (blockIsprime s) := by
  unfold blockIsprime
  split
  · exact .inl rfl
  · cases s.mre.ph with
    | classify => exact mreClassify_status s
    | decomp => exact .inl (mreHalve_status s)
    | base => exact mreBase_status s
    | square => exact mreSquare_status s
    | unnamed _ => exact .inl rfl

/-- A level-B step of any command leaves `STATUS` alone unless it is the step `Complete` (R29, R35). -/
theorem blockStep_status (s : State) : StatusKeptOrCompleted s (blockStep s) := by
  unfold blockStep
  cases decodeWord s.cmd with
  | none => exact .inl rfl
  | some i =>
    cases i with
    | modadd => exact .inr rfl
    | modsub => exact .inr rfl
    | modmul => exact blockModmul_status s
    | modpow => exact blockModpow_status s
    | isprime => exact blockIsprime_status s

theorem phaseLegal_blockStep {s : State} (hb : s.status.busy = true) (h : PhaseLegal s) :
    PhaseLegal (blockStep s) := by
  rcases blockStep_status s with hkept | hcompleted
  · exact (phaseLegal_congr hkept).mpr h
  · exact phaseLegal_of_phaseOf (hcompleted ▸ phaseOf_statusCompleted (h.anyFault_of_busy hb))

theorem phaseLegal_blockTurn {s : State} (h : PhaseLegal s) : PhaseLegal (blockTurn s) := by
  obtain ⟨-, heq⟩ | ⟨-, ts, c, heq | ⟨k, heq⟩⟩ := blockTurn_cases s <;> rw [heq]
  · exact h
  · exact h
  · exact blockSteps_keeps (fun _ => phaseLegal_blockStep) (k + 1) _ h

/-! ## The host's part of an edge -/

theorem phaseLegal_commandOf (i : Instr) {s : State} (h : PhaseLegal s) : PhaseLegal (commandOf i s) := by
  obtain ⟨-, heq⟩ | ⟨hf, -, heq⟩ | ⟨hf, -, -, -, heq⟩ | ⟨hf, -, -, heq⟩ := commandOf_cases i s <;> rw [heq]
  · exact h
  · exact phaseLegal_faultEntry _ hf
  · exact phaseLegal_faultEntry _ hf
  · exact phaseLegal_accept _ hf

theorem phaseLegal_reservedCommand {s : State} (h : PhaseLegal s) : PhaseLegal (reservedCommand s) := by
  obtain ⟨-, heq⟩ | ⟨hf, -, heq⟩ | ⟨hf, -, heq⟩ := reservedCommand_cases s <;> rw [heq]
  · exact h
  · exact phaseLegal_faultEntry _ hf
  · exact phaseLegal_faultEntry _ hf

theorem phaseLegal_afterCommand (w : Word) {s : State} (h : PhaseLegal s) : PhaseLegal (afterCommand w s) := by
  unfold afterCommand
  cases decodeWord w with
  | some i => exact phaseLegal_commandOf i h
  | none => exact phaseLegal_reservedCommand h

theorem phaseLegal_afterHost (p : PortsIn) {s : State} (h : PhaseLegal s) : PhaseLegal (afterHost p s) := by
  unfold afterHost
  split_ifs
  · exact phaseLegal_afterCommand _ h
  · exact (phaseLegal_congr (storeRegister_status ..)).mpr h
  · exact (phaseLegal_congr (readToLog_status ..)).mpr h
  · exact h

theorem phaseLegal_pollWait (rest : List HostStmt) {s : State} (h : PhaseLegal s) :
    PhaseLegal (pollWait rest s) := by
  unfold pollWait
  dsimp only
  split
  · exact phaseLegal_blockTurn ((phaseLegal_congr rfl).mpr h)
  · exact phaseLegal_blockTurn h

/-! ## A step -/

theorem phaseLegal_afterStep {s : State} (h : PhaseLegal s) : PhaseLegal (afterStep s) := by
  unfold afterStep
  split
  · exact phaseLegal_blockTurn h
  · split
    · exact phaseLegal_resetEvent _
    · exact phaseLegal_blockTurn (phaseLegal_afterHost _ h)
  · exact phaseLegal_pollWait _ h

end Sys2Proof.Machine

namespace Sys2Proof

open Machine

/-- Settles O18 (R27): every event of the block enters one of the four phases, and the bits of these exclude each other. -/
theorem onlyTheFourPhasesOccur : Obligations.OnlyTheFourPhasesOccur := by
  refine ⟨rfl, fun s t h hst => ?_, fun s => (phaseOf_isSome_iff s.status).mp⟩
  obtain rfl : afterStep s = t := Host.Outcome.next.inj ((step_eq s).symm.trans hst)
  exact phaseLegal_afterStep h

end Sys2Proof

/-! PROOF of O15. The write table of R54: away from `CMD` a write is a store, and a store reaches `OPA`, `OPB` and `OPM`
only. -/

namespace Sys2Proof.Machine

theorem regWrite_cmd (v : Word) (s : State) : regWrite 3#3 v s = commandStep v s := if_pos rfl

theorem regWrite_of_ne_cmd {i : RegIndex} (h : i ≠ 3#3) (v : Word) (s : State) :
    regWrite i v s = .next (storeRegister i v s) := if_neg h

/-- No index from 3 on names an operand register. -/
theorem storeRegister_of_three_le {i : RegIndex} (h : 3 ≤ i.toNat) (v : Word) (s : State) :
    storeRegister i v s = s := by
  unfold storeRegister
  split
  · omega
  · omega
  · omega
  · rfl

/-- `STATUS`, `RESULT` and the two unused indices ignore a write (R54). -/
theorem regWrite_of_cmd_lt {i : RegIndex} (h : 3 < i.toNat) (v : Word) (s : State) :
    regWrite i v s = .next s := by
  have hne : i ≠ 3#3 := by rintro rfl; exact absurd h (by decide)
  rw [regWrite_of_ne_cmd hne, storeRegister_of_three_le h.le]

end Sys2Proof.Machine

namespace Sys2Proof

open Machine

/-- Settles O15 (R54): each row of the write table, the command step by its equation for any word. -/
theorem regWriteStoresOrIsIgnored : Obligations.RegWriteStoresOrIsIgnored := by
  intro v s
  have stored {i : RegIndex} (h : i ≠ 3#3) := regWrite_of_ne_cmd h v s
  have ignored {i : RegIndex} (h : 3 < i.toNat) := regWrite_of_cmd_lt h v s
  exact ⟨stored (by decide), stored (by decide), stored (by decide), regWrite_cmd v s, ⟨_, commandStep_eq v s⟩,
    ignored (by decide), ignored (by decide), ignored (by decide), ignored (by decide)⟩

end Sys2Proof

/-! PROOF of O5. The two fields of a command word: which of their values the decoder takes, and what they are of the
word as a number. -/

namespace Sys2Proof

/-- The opcodes of R72 are those up to 4 (R74). -/
theorem decodeOp_isSome_iff (op : BitVec 3) : (decodeOp op).isSome = true ↔ op.toNat ≤ 4 := by
  revert op; decide

theorem decodeWord_isSome_iff (w : Word) :
    (decodeWord w).isSome = true ↔ zeroField w = 0#61 ∧ (opField w).toNat ≤ 4 := by
  rw [← decodeOp_isSome_iff]
  unfold decodeWord
  split_ifs with hzero <;> simp [hzero]

theorem opField_toNat (w : Word) : (opField w).toNat = w.toNat % 8 := BitVec.extractLsb'_toNat ..

theorem zeroField_eq_zero_iff (w : Word) : zeroField w = 0#61 ↔ w.toNat < 8 := by
  have hfield : (zeroField w).toNat = w.toNat / 8 % 2 ^ 61 := by
    rw [zeroField, BitVec.extractLsb'_toNat, Nat.shiftRight_eq_div_pow]
  have hword : w.toNat < 2 ^ 64 := w.isLt
  rw [← BitVec.toNat_inj, hfield, BitVec.toNat_ofNat]
  omega

/-- R71's two readings of a legal word agree: by its fields, and as a number. -/
theorem decodeWord_isSome_iff_toNat_le (w : Word) : (decodeWord w).isSome = true ↔ w.toNat ≤ 4 := by
  rw [decodeWord_isSome_iff, zeroField_eq_zero_iff, opField_toNat]
  omega

/-- Settles O5 (R71): the fields by the decoder's own test, the number by what the fields are of it. -/
theorem legalWordsAreZeroToFour : Obligations.LegalWordsAreZeroToFour := by
  refine fun w => ⟨decodeWord_isSome_iff w, (decodeWord_isSome_iff_toNat_le w).trans ?_⟩
  omega

end Sys2Proof

/-! PROOF of O7. A transaction word is the concatenation of three fields (R79); each is read back at its place, and any
68-bit word is the concatenation of its fields there. -/

namespace Sys2Proof

/-- The `wdata` field of a transaction's word, 0 for a read (R79). -/
def dataField (t : Transaction) : Word := if t.we then t.wdata else 0#64

theorem transactionWord_eq (t : Transaction) :
    transactionWord t = BitVec.ofBool t.we ++ t.idx ++ dataField t := rfl

theorem transactionWord_toNat (t : Transaction) :
    (transactionWord t).toNat = (t.we.toNat * 8 + t.idx.toNat) * 2 ^ 64 + (dataField t).toNat := by
  rw [transactionWord_eq, BitVec.toNat_append, BitVec.toNat_append, BitVec.toNat_ofBool,
    ← Nat.shiftLeft_add_eq_or_of_lt t.idx.isLt, ← Nat.shiftLeft_add_eq_or_of_lt (dataField t).isLt,
    Nat.shiftLeft_eq, Nat.shiftLeft_eq]

/-! ## The fields of a 68-bit word -/

theorem transactionWord_we (t : Transaction) : (transactionWord t).getLsbD 67 = t.we := by
  rw [transactionWord_eq, BitVec.getLsbD_append, if_neg (by decide), BitVec.getLsbD_append, if_neg (by decide)]
  exact (BitVec.getLsbD_ofBool ..).trans (Bool.true_and _)

theorem transactionWord_idx (t : Transaction) : (transactionWord t).extractLsb' 64 3 = t.idx := by
  rw [transactionWord_eq, BitVec.extractLsb'_append_eq_of_le le_rfl, BitVec.extractLsb'_append_eq_right]

theorem transactionWord_data (t : Transaction) : (transactionWord t).extractLsb' 0 64 = dataField t :=
  BitVec.extractLsb'_append_eq_right

theorem append_transactionFields (x : BitVec 68) :
    BitVec.ofBool (x.getLsbD 67) ++ x.extractLsb' 64 3 ++ x.extractLsb' 0 64 = x := by
  have hwe : BitVec.ofBool (x.getLsbD 67) = x.extractLsb' 67 1 := by
    rw [BitVec.getLsbD_eq_extractLsb']
    generalize x.extractLsb' 67 1 = b
    revert b; decide
  rw [hwe, BitVec.extractLsb'_append_extractLsb'_eq_extractLsb' (start₁ := 64) (len₁ := 3) rfl]
  exact (BitVec.extractLsb'_append_extractLsb'_eq_extractLsb' (start₁ := 0) rfl).trans BitVec.extractLsb'_eq_self

/-! ## Decoding -/

/-- Decoding a transaction's word gives it back, up to the `wdata` of a read, which the word does not carry. -/
theorem decodeTransaction_transactionWord (t : Transaction) :
    decodeTransaction (transactionWord t) = some { t with wdata := dataField t } := by
  unfold decodeTransaction
  rw [transactionWord_we, transactionWord_idx, transactionWord_data]
  obtain ⟨we, idx, wdata⟩ := t
  cases we <;> rfl

theorem transactionWord_of_decodeTransaction {x : BitVec 68} {t : Transaction}
    (h : decodeTransaction x = some t) : transactionWord t = x := by
  rw [← append_transactionFields x]
  unfold decodeTransaction at h
  split_ifs at h with hwe hdata
  · obtain rfl := Option.some.inj h
    rw [hwe]; rfl
  · obtain rfl := Option.some.inj h
    rw [Bool.eq_false_of_not_eq_true hwe, hdata]; rfl

/-- Settles O7 (R79): the number of a transaction's word, and decoding in both directions. -/
theorem transactionWordsRoundTrip : Obligations.TransactionWordsRoundTrip := by
  refine ⟨fun i v => ⟨rfl, ?_, decodeTransaction_transactionWord _⟩,
    fun i => ⟨rfl, ?_, decodeTransaction_transactionWord _⟩,
    fun _ _ => transactionWord_of_decodeTransaction, rfl⟩
  · rw [transactionWord_toNat]; simp [dataField]
  · rw [transactionWord_toNat]; simp [dataField]

end Sys2Proof

/-! PROOF of O49. The block left to itself delivers its command's value: each unit's level-B steps pay what level A's
function says (R35). The open schedule only decides how many of these steps fall between two polls of the waiting host,
since a step neither reads nor writes anything of the host or the schedule. -/

namespace Sys2Proof.Machine

/-! ## What a level-B step reads and writes -/

/-- The registers a level-B step works with taken from s (status, result, latches, units), all else from u: the operand
registers, `CMD`, the host, the schedule and the model's counters. -/
def State.graft (s u : State) : State :=
  { u with
    status := s.status, result := s.result, la := s.la, lb := s.lb, lm := s.lm
    mul := s.mul, pow := s.pow, mre := s.mre, loaded := s.loaded }

theorem blockModmul_graft (s u : State) : blockModmul (s.graft u) = (blockModmul s).graft u := by
  unfold blockModmul
  simp only [apply_ite (State.graft · u)]
  rfl

theorem blockModpow_graft (s u : State) : blockModpow (s.graft u) = (blockModpow s).graft u := by
  unfold blockModpow
  simp only [apply_ite (State.graft · u)]
  rfl

theorem mreClassify_graft (s u : State) : mreClassify (s.graft u) = (mreClassify s).graft u := by
  unfold mreClassify
  simp only [apply_ite (State.graft · u)]
  rfl

theorem mreHalve_graft (s u : State) : mreHalve (s.graft u) = (mreHalve s).graft u := by
  unfold mreHalve
  simp only [apply_ite (State.graft · u)]
  rfl

theorem mreBase_graft (s u : State) : mreBase (s.graft u) = (mreBase s).graft u := by
  unfold mreBase
  simp only [apply_ite (State.graft · u)]
  rfl

theorem mreSquare_graft (s u : State) : mreSquare (s.graft u) = (mreSquare s).graft u := by
  unfold mreSquare
  simp only [apply_ite (State.graft · u)]
  rfl

theorem blockIsprime_graft (s u : State) : blockIsprime (s.graft u) = (blockIsprime s).graft u := by
  have hph : (s.graft u).mre.ph = s.mre.ph := rfl
  unfold blockIsprime
  rw [apply_ite (State.graft · u), hph]
  cases s.mre.ph with
  | classify => rw [mreClassify_graft]; rfl
  | decomp => rw [mreHalve_graft]; rfl
  | base => rw [mreBase_graft]; rfl
  | square => rw [mreSquare_graft]; rfl
  | unnamed _ => rfl

/-- A level-B step reads its own registers and `CMD` only, and writes its own registers only (R29, R30). -/
theorem blockStep_graft {s u : State} (hcmd : u.cmd = s.cmd) : blockStep (s.graft u) = (blockStep s).graft u := by
  have hc : (s.graft u).cmd = s.cmd := hcmd
  unfold blockStep
  rw [hc]
  cases decodeWord s.cmd with
  | none => rfl
  | some i =>
    cases i with
    | modadd => rfl
    | modsub => rfl
    | modmul => exact blockModmul_graft s u
    | modpow => exact blockModpow_graft s u
    | isprime => exact blockIsprime_graft s u

theorem blockStep_eq_graft (s : State) : blockStep s = (blockStep s).graft s :=
  blockStep_graft (s := s) (u := s) rfl

@[simp] theorem blockStep_cmd (s : State) : (blockStep s).cmd = s.cmd := by rw [blockStep_eq_graft]; rfl

/-! ## The block alone, step after step -/

/-- `STATUS` in phase BUSY (R27). -/
def busyStatus : Status := ⟨true, false, false, false, false⟩

/-- `STATUS` in phase IDLE-DONE (R27). -/
def doneStatus : Status := ⟨false, true, false, false, false⟩

theorem phaseOf_eq_busy_iff (st : Status) : phaseOf st = some .busy ↔ st = busyStatus := by
  obtain ⟨busy, done, mzero, illegal, overrun⟩ := st
  revert busy done mzero illegal overrun
  decide

theorem phaseOf_eq_idleDone_iff (st : Status) : phaseOf st = some .idleDone ↔ st = doneStatus := by
  obtain ⟨busy, done, mzero, illegal, overrun⟩ := st
  revert busy done mzero illegal overrun
  decide

/-- The block, stepping on from s, completes without a fault and with v in `RESULT`. -/
inductive Delivers (v : Word) : State → Prop
  | completed {s : State} (hstatus : s.status = doneStatus) (hresult : s.result = v) : Delivers v s
  | running {s : State} (hstatus : s.status = busyStatus) (hnext : Delivers v (blockStep s)) : Delivers v s

/-- Command i runs in s (R27, R25). -/
structure Runs (i : Instr) (s : State) : Prop where
  status : s.status = busyStatus
  command : decodeWord s.cmd = some i

theorem delivers_complete {s : State} (v : Word) (h : s.status = busyStatus) : Delivers v (complete v s) :=
  .completed ((phaseOf_eq_idleDone_iff _).mp (phaseOf_statusCompleted (h ▸ rfl))) rfl

section Units

variable {v : Word} {s : State}

theorem Runs.modadd (h : Runs .modadd s) (hnext : Delivers v (blockModadd s)) : Delivers v s :=
  .running h.status (by rwa [blockStep, h.command])

theorem Runs.modsub (h : Runs .modsub s) (hnext : Delivers v (blockModsub s)) : Delivers v s :=
  .running h.status (by rwa [blockStep, h.command])

theorem Runs.modmul (h : Runs .modmul s) (hnext : Delivers v (blockModmul s)) : Delivers v s :=
  .running h.status (by rwa [blockStep, h.command])

theorem Runs.modpow (h : Runs .modpow s) (hnext : Delivers v (blockModpow s)) : Delivers v s :=
  .running h.status (by rwa [blockStep, h.command])

theorem Runs.isprime (h : Runs .isprime s) (hnext : Delivers v (blockIsprime s)) : Delivers v s :=
  .running h.status (by rwa [blockStep, h.command])

end Units

/-! ## MUL and POW -/

theorem bitlen_eq_zero_iff {u : Word} : bitlen u = 0 ↔ u = 0#64 := by
  constructor
  · intro h
    by_contra h0
    rw [bitlen_shr1 h0] at h
    omega
  · rintro rfl
    rfl

/-- Once loaded, MUL delivers what its loop computes from its registers (R122 against R121). -/
theorem delivers_mulWhile {s : State} (h : Runs .modmul s) (hload : s.loaded = true) :
    Delivers (mulWhile s.mul.a s.mul.b s.mul.r s.mul.m) s := by
  induction hk : bitlen s.mul.b generalizing s with
  | zero =>
    have hb : s.mul.b = 0#64 := bitlen_eq_zero_iff.mp hk
    have hblock : blockModmul s = complete s.mul.r s := by simp [blockModmul, hload, hb]
    refine h.modmul ?_
    rw [hblock, hb, mulWhile_done]
    exact delivers_complete _ h.status
  | succ k ih =>
    have hb : s.mul.b ≠ 0#64 := fun hb => Nat.succ_ne_zero k (hk.symm.trans (bitlen_eq_zero_iff.mpr hb))
    have hblock : blockModmul s = { s with mul := mulIterate s.mul } := by simp [blockModmul, hload, hb]
    rw [bitlen_shr1 hb] at hk
    refine h.modmul ?_
    rw [hblock, mulWhile_unroll _ _ _ hb]
    exact ih (s := { s with mul := mulIterate s.mul }) ⟨h.status, h.command⟩ hload (Nat.succ.inj hk)

/-- Once loaded, POW delivers what its loop computes from its registers (R137 against R136). -/
theorem delivers_powWhile {s : State} (h : Runs .modpow s) (hload : s.loaded = true) :
    Delivers (powWhile s.pow.a s.pow.b s.pow.r s.pow.m) s := by
  induction hk : bitlen s.pow.b generalizing s with
  | zero =>
    have hb : s.pow.b = 0#64 := bitlen_eq_zero_iff.mp hk
    have hblock : blockModpow s = complete s.pow.r s := by simp [blockModpow, hload, hb]
    refine h.modpow ?_
    rw [hblock, hb, powWhile_done]
    exact delivers_complete _ h.status
  | succ k ih =>
    have hb : s.pow.b ≠ 0#64 := fun hb => Nat.succ_ne_zero k (hk.symm.trans (bitlen_eq_zero_iff.mpr hb))
    have hblock : blockModpow s = { s with pow := powIterate s.pow, mul := powIterateMul s.pow } := by
      simp [blockModpow, hload, hb]
    rw [bitlen_shr1 hb] at hk
    refine h.modpow ?_
    rw [hblock, powWhile_unroll _ _ _ hb]
    exact ih (s := { s with pow := powIterate s.pow, mul := powIterateMul s.pow }) ⟨h.status, h.command⟩ hload
      (Nat.succ.inj hk)

theorem delivers_modmul {s : State} (h : Runs .modmul s) (hload : s.loaded = false) :
    Delivers (MULM s.la s.lb s.lm) s := by
  have hblock : blockModmul s = { s with mul := mulLoad s.la s.lb s.lm, loaded := true } := by
    simp [blockModmul, hload, operandA, operandB, operandM]
  refine h.modmul ?_
  rw [hblock]
  exact delivers_mulWhile (s := { s with mul := mulLoad s.la s.lb s.lm, loaded := true }) ⟨h.status, h.command⟩ rfl

theorem delivers_modpow {s : State} (h : Runs .modpow s) (hload : s.loaded = false) :
    Delivers (POWM s.la s.lb s.lm) s := by
  have hblock : blockModpow s = { s with pow := powLoad s.la s.lb s.lm, loaded := true } := by
    simp [blockModpow, hload, operandA, operandB, operandM]
  refine h.modpow ?_
  rw [hblock]
  exact delivers_powWhile (s := { s with pow := powLoad s.la s.lb s.lm, loaded := true }) ⟨h.status, h.command⟩ rfl

/-! ## The decision engine -/

theorem shr1_ne_zero {B : Word} (hB : B ≠ 0#64) (hlow : lowBit B = false) : shr1 B ≠ 0#64 := by
  intro h0
  have hpos := toNat_pos_of_ne_zero hB
  have hhalf := congrArg BitVec.toNat h0
  rw [shr1_toNat, BitVec.toNat_ofNat] at hhalf
  rw [lowBit_eq, decide_eq_false_iff_not] at hlow
  omega

theorem add_one_lt_of_mul_two_pow_lt {d r : Nat} (hd : 2 ≤ d) (h : d * 2 ^ r < 2 ^ 64) : r + 1 < 64 := by
  refine (Nat.pow_lt_pow_iff_right (a := 2) one_lt_two).mp (lt_of_le_of_lt ?_ h)
  rw [pow_succ']
  exact Nat.mul_le_mul_right _ hd

theorem drop_baseTable {i : BitVec 4} (hi : i.toNat < 12) :
    Config.baseTable.toList.drop i.toNat = baseAt i :: Config.baseTable.toList.drop (i.toNat + 1) := by
  have hlen : i.toNat < Config.baseTable.toList.length := by simpa using hi
  rw [List.drop_eq_getElem_cons hlen, baseAt, dif_pos hi]
  rfl

/-- `ISPRIME` runs and its engine has loaded: phase ph, on input n with `n - 1` split into d and r (R33). -/
structure EngineAt (ph : MrePhase) (n d : Word) (r : Nat) (s : State) : Prop where
  runs : Runs .isprime s
  loaded : s.loaded = true
  ph_eq : s.mre.ph = ph
  n_eq : s.mre.n = n
  d_eq : s.mre.d = d
  r_eq : s.mre.r.toNat = r

section Engine

variable {n d : Word} {r : Nat} {s : State} {v : Word}

theorem EngineAt.step {ph : MrePhase} (h : EngineAt ph n d r s) (hnext : Delivers v (blockIsprime s)) :
    Delivers v s :=
  h.runs.isprime hnext

/-- A step of the engine that goes on leaves it at the place its new registers say. -/
theorem EngineAt.moveTo {ph ph' : MrePhase} {d' : Word} {r' : Nat} (h : EngineAt ph n d r s) {e : MreRegs}
    {q : MulRegs} {p : PowRegs} (hph : e.ph = ph') (hn : e.n = n) (hd : e.d = d') (hr : e.r.toNat = r') :
    EngineAt ph' n d' r' { s with mul := q, pow := p, mre := e } :=
  ⟨⟨h.runs.status, h.runs.command⟩, h.loaded, hph, hn, hd, hr⟩

theorem EngineAt.blockIsprime_base (h : EngineAt .base n d r s) : blockIsprime s = mreBase s := by
  simp [blockIsprime, h.loaded, h.ph_eq]

theorem EngineAt.blockIsprime_square (h : EngineAt .square n d r s) : blockIsprime s = mreSquare s := by
  simp [blockIsprime, h.loaded, h.ph_eq]

theorem EngineAt.blockIsprime_decomp (h : EngineAt .decomp n d r s) : blockIsprime s = mreHalve s := by
  simp [blockIsprime, h.loaded, h.ph_eq]

theorem EngineAt.blockIsprime_classify (h : EngineAt .classify n d r s) : blockIsprime s = mreClassify s := by
  simp [blockIsprime, h.loaded, h.ph_eq]

theorem EngineAt.delivers_finish {ph : MrePhase} (h : EngineAt ph n d r s) (b : Bool) :
    Delivers (verdictWord b) (finish b s) :=
  delivers_complete _ h.runs.status

/-- The squarings of one base (R158 against step 2d of R151): verdict 0 when they run out; else v, if v is what the
next base leads to. -/
theorem EngineAt.delivers_square (h : EngineAt .square n d r s) (hi : s.mre.i.toNat < 12)
    (hbase : ∀ t, EngineAt .base n d r t → t.mre.i.toNat = s.mre.i.toNat + 1 → Delivers v t) :
    Delivers (if reachesMinusOne s.mre.j.toNat s.mre.x n then v else verdictWord false) s := by
  induction hk : s.mre.j.toNat generalizing s with
  | zero =>
    have hj : s.mre.j = 0#6 := BitVec.eq_of_toNat_eq hk
    refine h.step ?_
    rw [h.blockIsprime_square, mreSquare, if_pos hj]
    exact delivers_complete _ h.runs.status
  | succ k ih =>
    have hj : s.mre.j ≠ 0#6 := by intro hj; rw [hj] at hk; exact absurd hk (by simp)
    have hj' : (s.mre.j - 1#6).toNat = k := by bv_omega
    have hi' : (s.mre.i + 1#4).toNat = s.mre.i.toNat + 1 := by bv_omega
    refine h.step ?_
    rw [h.blockIsprime_square, mreSquare, if_neg hj, h.n_eq, reachesMinusOne]
    dsimp only
    by_cases hx : MULM s.mre.x s.mre.x n = sub64 n 1#64
    · rw [if_pos hx, if_pos hx, if_pos rfl]
      exact hbase _ (h.moveTo rfl h.n_eq h.d_eq h.r_eq) hi'
    · rw [if_neg hx, if_neg hx]
      exact ih (h.moveTo (e := { s.mre with x := MULM s.mre.x s.mre.x n, j := s.mre.j - 1#6 }) h.ph_eq
        h.n_eq h.d_eq h.r_eq) hi hbase hj'

/-- The base loop from base i on (R158 against step 2 of R151). The guard on r keeps `MRE.R - 1` from wrapping. -/
theorem EngineAt.delivers_base (h : EngineAt .base n d r s) (hi : s.mre.i.toNat ≤ 12) (hr : 1 ≤ r) :
    Delivers (verdictWord (baseLoop (Config.baseTable.toList.drop s.mre.i.toNat) d r n)) s := by
  induction hk : 12 - s.mre.i.toNat generalizing s with
  | zero =>
    have hi12 : s.mre.i = 12#4 := by bv_omega
    refine h.step ?_
    rw [h.blockIsprime_base, mreBase, if_pos hi12, hi12]
    exact h.delivers_finish true
  | succ k ih =>
    have hlt : s.mre.i.toNat < 12 := by omega
    have hi12 : s.mre.i ≠ 12#4 := by intro hi12; rw [hi12] at hlt; exact absurd hlt (by simp)
    have hi' : (s.mre.i + 1#4).toNat = s.mre.i.toNat + 1 := by bv_omega
    have hnext : ∀ t, EngineAt .base n d r t → t.mre.i.toNat = s.mre.i.toNat + 1 →
        Delivers (verdictWord (baseLoop (Config.baseTable.toList.drop (s.mre.i.toNat + 1)) d r n)) t :=
      fun t ht hti => hti ▸ ih ht (by omega) (by omega)
    refine h.step ?_
    rw [h.blockIsprime_base, mreBase, if_neg hi12, drop_baseTable hlt, baseLoop, h.n_eq, h.d_eq]
    by_cases hlast : baseAt s.mre.i > sub64 n 2#64
    · rw [if_pos hlast, if_pos hlast]
      exact h.delivers_finish true
    rw [if_neg hlast, if_neg hlast, basePasses]
    dsimp only
    by_cases hpass : POWM (baseAt s.mre.i) d n = 1#64 ∨ POWM (baseAt s.mre.i) d n = sub64 n 1#64
    · rw [if_pos hpass, if_pos hpass, if_pos rfl]
      exact hnext _ (h.moveTo h.ph_eq h.n_eq h.d_eq h.r_eq) hi'
    · have hj : (s.mre.r - 1#6).toNat = r - 1 := by have := h.r_eq; bv_omega
      rw [if_neg hpass, if_neg hpass, apply_ite verdictWord, ← hj]
      exact (h.moveTo (e := { s.mre with x := _, j := _, ph := .square }) rfl h.n_eq h.d_eq h.r_eq).delivers_square
        hlt hnext

/-- The decomposition (R158 against step 1 of R151), which stays one of `n - 1` (R161), and then the base loop. -/
theorem EngineAt.delivers_decomp (h : EngineAt .decomp n d r s) (hd : d ≠ 0#64) (hn : n.toNat % 2 = 1)
    (hsplit : d.toNat * 2 ^ r + 1 = n.toNat) :
    Delivers (verdictWord (baseLoop Config.baseTable.toList (halveWhile d r).1 (halveWhile d r).2 n)) s := by
  induction hk : bitlen d generalizing s d r with
  | zero => exact absurd (bitlen_eq_zero_iff.mp hk) hd
  | succ k ih =>
    refine h.step ?_
    rw [h.blockIsprime_decomp, mreHalve, h.d_eq]
    cases hlow : lowBit d with
    | true =>
      have hr : 1 ≤ r := by
        rw [lowBit_eq, decide_eq_true_eq] at hlow
        rcases Nat.eq_zero_or_pos r with rfl | hr
        · omega
        · exact hr
      rw [halveWhile_done r hd hlow]
      exact (h.moveTo (e := { s.mre with i := 0#4, ph := .base }) rfl h.n_eq h.d_eq h.r_eq).delivers_base
        (Nat.zero_le _) hr
    | false =>
      have heven : d.toNat % 2 = 0 := by rw [lowBit_eq, decide_eq_false_iff_not] at hlow; omega
      have hpos := toNat_pos_of_ne_zero hd
      have hr : r + 1 < 64 := add_one_lt_of_mul_two_pow_lt (d := d.toNat) (by omega) (by omega)
      have hsplit' : (shr1 d).toNat * 2 ^ (r + 1) + 1 = n.toNat := by
        rw [shr1_toNat, pow_succ', ← mul_assoc, Nat.div_mul_cancel (Nat.dvd_of_mod_eq_zero heven), hsplit]
      have hr' : (s.mre.r + 1#6).toNat = r + 1 := by
        rw [BitVec.toNat_add, h.r_eq]
        exact Nat.mod_eq_of_lt hr
      rw [bitlen_shr1 hd] at hk
      rw [halveWhile_unroll r hd hlow]
      exact ih (h.moveTo (e := { s.mre with d := shr1 d, r := s.mre.r + 1#6 }) h.ph_eq h.n_eq rfl hr')
        (shr1_ne_zero hd hlow) hsplit' (Nat.succ.inj hk)

/-- The classification, and all that follows it (R158 against R151). -/
theorem EngineAt.delivers_classify (h : EngineAt .classify n d r s) : Delivers (verdictWord (MRV n)) s := by
  refine h.step ?_
  rw [h.blockIsprime_classify, mreClassify, MRV, h.n_eq]
  by_cases hsmall : n < 2#64
  · rw [if_pos hsmall, if_pos hsmall]
    exact h.delivers_finish false
  rw [if_neg hsmall, if_neg hsmall]
  by_cases htwo : n = 2#64 ∨ n = 3#64
  · rw [if_pos htwo, if_pos htwo]
    exact h.delivers_finish true
  rw [if_neg htwo, if_neg htwo]
  cases hlow : lowBit n with
  | false => exact h.delivers_finish false
  | true =>
    have hodd : n.toNat % 2 = 1 := by rwa [lowBit_eq, decide_eq_true_eq] at hlow
    have hge : 2 ≤ n.toNat := by rw [BitVec.lt_def, BitVec.toNat_ofNat] at hsmall; omega
    have hpred : (sub64 n 1#64).toNat + 1 = n.toNat := by unfold sub64; bv_omega
    have hpos : sub64 n 1#64 ≠ 0#64 := by intro h0; rw [h0, BitVec.toNat_ofNat] at hpred; omega
    rw [Bool.not_true, if_neg Bool.false_ne_true, if_neg Bool.false_ne_true]
    exact (h.moveTo (e := { s.mre with d := sub64 n 1#64, r := 0#6, ph := .decomp }) rfl h.n_eq rfl rfl).delivers_decomp
      hpos hodd ((congrArg (· + 1) (mul_one _)).trans hpred)

end Engine

theorem delivers_isprime {s : State} (h : Runs .isprime s) (hload : s.loaded = false) :
    Delivers (verdictWord (MRV s.lm)) s := by
  have hblock : blockIsprime s = mreLoad s := by simp [blockIsprime, hload]
  refine h.isprime ?_
  rw [hblock]
  exact EngineAt.delivers_classify ⟨⟨h.status, h.command⟩, rfl, rfl, rfl, rfl, rfl⟩

/-- A command just accepted delivers its function value of the latched operands (R29, R35). -/
theorem Runs.delivers {i : Instr} {s : State} (h : Runs i s) (hload : s.loaded = false) :
    Delivers (commandValue i s.la s.lb s.lm) s := by
  cases i with
  | modadd => exact h.modadd (delivers_complete _ h.status)
  | modsub => exact h.modsub (delivers_complete _ h.status)
  | modmul => exact delivers_modmul h hload
  | modpow => exact delivers_modpow h hload
  | isprime => exact delivers_isprime h hload

/-! ## Runs -/

/-- Some number of steps leads from s to a state with property P. -/
def Leads (s : State) (P : State → Prop) : Prop := ∃ n t, runsTo n s t ∧ P t

theorem Leads.here {s : State} {P : State → Prop} (h : P s) : Leads s P := ⟨0, s, (runsTo_zero s s).mpr rfl, h⟩

theorem Leads.step {s : State} {P : State → Prop} : Leads (afterStep s) P → Leads s P
  | ⟨n, t, hrun, h⟩ => ⟨n + 1, t, (runsTo_succ n s t).mpr hrun, h⟩

theorem runsTo_add {n m : Nat} {s t u : State} (hst : runsTo n s t) (htu : runsTo m t u) : runsTo (n + m) s u := by
  induction n generalizing s with
  | zero => rw [(runsTo_zero s t).mp hst, Nat.zero_add]; exact htu
  | succ n ih => rw [Nat.succ_add, runsTo_succ]; exact ih ((runsTo_succ n s t).mp hst)

theorem Leads.bind {s : State} {P Q : State → Prop} (h : Leads s P) (hPQ : ∀ t, P t → Leads t Q) : Leads s Q := by
  obtain ⟨n, t, hst, ht⟩ := h
  obtain ⟨m, u, htu, hu⟩ := hPQ t ht
  exact ⟨n + m, u, runsTo_add hst htu, hu⟩

/-! ## One edge of each statement of a pseudo-instruction -/

theorem blockTurn_of_not_busy {s : State} (h : s.status.busy = false) : blockTurn s = s := by
  unfold blockTurn
  rw [h, if_neg Bool.false_ne_true]

theorem blockTurn_eq_blockSteps (s : State) :
    ∃ (k : Nat) (ts : List Turn) (c : Nat), blockTurn s = blockSteps k { s with turns := ts, turnCount := c } := by
  obtain ⟨-, heq⟩ | ⟨-, ts, c, heq | ⟨k, heq⟩⟩ := blockTurn_cases s
  · exact ⟨0, s.turns, s.turnCount, heq⟩
  · exact ⟨0, ts, c, heq⟩
  · exact ⟨k + 1, ts, c, heq⟩

theorem blockTurn_moves {s : State} (hbusy : s.status.busy = true) (hidle : (takeTurn s).1.idle = 0) :
    ∃ (k : Nat) (ts : List Turn) (c : Nat),
      blockTurn s = blockSteps (k + 1) { s with turns := ts, turnCount := c } := by
  refine ⟨(takeTurn s).1.extra, (takeTurn s).2.turns, (takeTurn s).2.turnCount, ?_⟩
  rw [blockTurn, if_pos hbusy, ← takeTurn_snd]
  exact if_pos hidle

theorem blockTurn_sitsOut {s : State} {k : Nat} (hbusy : s.status.busy = true) (hidle : (takeTurn s).1.idle = k + 1) :
    ∃ (e : Nat) (ts : List Turn) (c : Nat), blockTurn s = { s with turns := ⟨k, e⟩ :: ts, turnCount := c } := by
  refine ⟨(takeTurn s).1.extra, (takeTurn s).2.turns, (takeTurn s).2.turnCount, ?_⟩
  rw [blockTurn, if_pos hbusy]
  dsimp only
  rw [if_neg (by omega), hidle, takeTurn_snd]
  rfl

section Edges

variable {s : State} {rest : List HostStmt}

theorem afterStep_edge {p : PortsIn} (hscript : s.script = .edge p :: rest) (hp : p.rst = false) :
    afterStep s = blockTurn (afterHost p { s with script := rest }) := by
  unfold afterStep
  rw [hscript]
  simp only [hp, Bool.false_eq_true, if_false]

theorem afterStep_operand {i : RegIndex} {v : Word} (hscript : s.script = stmtWR i v :: rest) (hi : i ≠ 3#3)
    (hbusy : s.status.busy = false) : afterStep s = storeRegister i v { s with script := rest } := by
  have hhost : afterHost (portsWrite i v) { s with script := rest } = storeRegister i v { s with script := rest } := by
    simp [afterHost, portsWrite, hi]
  rw [afterStep_edge hscript rfl, hhost, blockTurn_of_not_busy (by rw [storeRegister_status]; exact hbusy)]

theorem afterStep_read {i : RegIndex} (hscript : s.script = stmtRD i :: rest) (hbusy : s.status.busy = false) :
    afterStep s = readToLog i { s with script := rest } := by
  have hhost : afterHost (portsRead i) { s with script := rest } = readToLog i { s with script := rest } := rfl
  rw [afterStep_edge hscript rfl, hhost, blockTurn_of_not_busy (by rw [readToLog_status]; exact hbusy)]

theorem commandOf_of_idle {i : Instr} (h : Idle s) (hm : i ≠ .isprime → s.opm ≠ 0#64) :
    commandOf i s = accept (encode i) s := by
  obtain ⟨hbusy, hfault⟩ := h
  have hmod : (needsModulus i && s.opm == 0#64) = false := by
    cases i <;> simp_all [needsModulus]
  unfold commandOf
  rw [hfault, hbusy, hmod]
  rfl

theorem afterStep_command {i : Instr} (hscript : s.script = stmtCommand i :: rest) (h : Idle s)
    (hm : i ≠ .isprime → s.opm ≠ 0#64) :
    afterStep s = blockTurn (accept (encode i) { s with script := rest }) := by
  have hhost : afterHost (portsWrite 3#3 (encode i)) { s with script := rest } =
      commandOf i { s with script := rest } := by
    simp [afterHost, portsWrite, afterCommand]
  rw [afterStep_edge hscript rfl, hhost, commandOf_of_idle (s := { s with script := rest }) h hm]

theorem afterStep_wait (hscript : s.script = .wait :: rest) : afterStep s = pollWait rest s := by
  unfold afterStep
  rw [hscript]

theorem pollWait_of_busy (h : s.status = busyStatus) : pollWait rest s = blockTurn s := by
  have hread : readValue 4#3 s = 1#64 := (congrArg statusWord h).trans rfl
  unfold pollWait
  rw [hread]
  exact if_neg (by decide)

theorem pollWait_of_done (h : s.status = doneStatus) :
    pollWait rest s = { s with script := rest, readLog := s.readLog ++ [2#64] } := by
  have hread : readValue 4#3 s = 2#64 := (congrArg statusWord h).trans rfl
  unfold pollWait
  rw [hread]
  refine (if_pos (by decide)).trans (blockTurn_of_not_busy ?_)
  exact congrArg Status.busy h

/-- While the host waits, the edges the block sits out come to an end (R255): it moves. -/
theorem leads_of_wait_busy {P : State → Prop} (hscript : s.script = .wait :: rest) (hbusy : s.status = busyStatus)
    (hP : ∀ k ts c, Leads (blockSteps (k + 1) { s with turns := ts, turnCount := c }) P) : Leads s P := by
  have hb : s.status.busy = true := congrArg Status.busy hbusy
  refine .step ?_
  rw [afterStep_wait hscript, pollWait_of_busy hbusy]
  induction hk : (takeTurn s).1.idle generalizing s with
  | zero =>
    obtain ⟨k, ts, c, heq⟩ := blockTurn_moves hb hk
    exact heq ▸ hP k ts c
  | succ k ih =>
    obtain ⟨e, ts, c, heq⟩ := blockTurn_sitsOut hb hk
    rw [heq]
    refine .step ?_
    rw [afterStep_wait (rest := rest) (by exact hscript), pollWait_of_busy (by exact hbusy)]
    exact ih hscript hbusy hP hb rfl

end Edges

/-- What stands when a `WAIT` begun in u has ended: phase IDLE-DONE with v, 2 in the log, and the rest as in u. -/
def Waited (v : Word) (rest : List HostStmt) (u t : State) : Prop :=
  ∃ (f : State) (ts : List Turn) (c : Nat), f.status = doneStatus ∧ f.result = v ∧
    t = f.graft { u with script := rest, readLog := u.readLog ++ [2#64], turns := ts, turnCount := c }

/-- Under any schedule, what the block delivers when left to itself it delivers to a host that waits: for the schedule
only says how many level-B steps it makes between two polls. -/
theorem Delivers.leads_of_wait {v : Word} {rest : List HostStmt} {s : State} (h : Delivers v s) :
    ∀ (k : Nat) (u : State), u.cmd = s.cmd → u.script = .wait :: rest →
      Leads (blockSteps k (s.graft u)) (Waited v rest u) := by
  induction h with
  | @completed s hstatus hresult =>
    intro k u hcmd hscript
    have hrest : blockSteps k (s.graft u) = s.graft u := by
      cases k with
      | zero => rfl
      | succ k => exact if_neg (by rw [show (s.graft u).status = doneStatus from hstatus]; decide)
    rw [hrest]
    refine .step (.here ⟨s, u.turns, u.turnCount, hstatus, hresult, ?_⟩)
    rw [afterStep_wait (s := s.graft u) hscript, pollWait_of_done (s := s.graft u) hstatus]
    rfl
  | @running s hstatus _ ih =>
    intro k u hcmd hscript
    have hmove : ∀ (k : Nat) (u : State), u.cmd = s.cmd → u.script = .wait :: rest →
        Leads (blockSteps (k + 1) (s.graft u)) (Waited v rest u) := by
      intro k u hcmd hscript
      have hbusy : (s.graft u).status.busy = true := congrArg Status.busy hstatus
      rw [blockSteps, if_pos hbusy, blockStep_graft hcmd]
      exact ih k u (hcmd.trans (blockStep_cmd s).symm) hscript
    cases k with
    | zero =>
      exact leads_of_wait_busy (s := s.graft u) hscript hstatus fun k ts c =>
        hmove k { u with turns := ts, turnCount := c } hcmd hscript
    | succ k => exact hmove k u hcmd hscript

/-- What the host finds after the pseudo-instruction of command i with a, b and m in the operand registers, begun with
this log and with `rest` to follow. -/
structure Delivered (i : Instr) (a b m : Word) (log : List Word) (rest : List HostStmt) (t : State) : Prop where
  script : t.script = rest
  readLog : t.readLog = log ++ [2#64, commandValue i a b m]
  cmd : t.cmd = encode i
  status : t.status = doneStatus
  result : t.result = commandValue i a b m
  opa : t.opa = a
  opb : t.opb = b
  opm : t.opm = m

/-- A read of `RESULT` in phase IDLE-DONE logs it (R22). -/
theorem afterStep_readResult {s : State} {rest : List HostStmt} (hscript : s.script = stmtRD 5#3 :: rest)
    (hdone : s.status = doneStatus) :
    afterStep s = { s with script := rest, readLog := s.readLog ++ [s.result] } := by
  have hhidden : resultHidden { s with script := rest } = false := by
    unfold resultHidden; rw [hdone]; rfl
  rw [afterStep_read hscript (by rw [hdone]; rfl), readToLog, afterRead, hhidden]
  simp [readValue, hhidden]

theorem Leads.readResult {s : State} {P : State → Prop} {rest : List HostStmt}
    (hscript : s.script = stmtRD 5#3 :: rest) (hdone : s.status = doneStatus)
    (h : P { s with script := rest, readLog := s.readLog ++ [s.result] }) : Leads s P :=
  .step ((afterStep_readResult hscript hdone).symm ▸ .here h)

theorem runs_accept {i : Instr} {s : State} (h : Idle s) : Runs i (accept (encode i) s) := by
  obtain ⟨-, hfault⟩ := h
  exact ⟨(phaseOf_eq_busy_iff _).mp (phaseOf_statusAccepted hfault), decodeWord_encode i⟩

/-- Acceptance, which may complete at its own edge, and the `WAIT` after it. -/
theorem leads_of_accept {i : Instr} {s : State} {rest : List HostStmt} (h : Idle s)
    (hscript : s.script = .wait :: rest) :
    Leads (blockTurn (accept (encode i) s))
      (Waited (commandValue i s.opa s.opb s.opm) rest (accept (encode i) s)) := by
  obtain ⟨k, ts, c, hturn⟩ := blockTurn_eq_blockSteps (accept (encode i) s)
  have hdelivers : Delivers (commandValue i s.opa s.opb s.opm) (accept (encode i) s) := (runs_accept h).delivers rfl
  rw [hturn]
  exact hdelivers.leads_of_wait k { accept (encode i) s with turns := ts, turnCount := c } rfl hscript

/-- From the write of `CMD` on, with the operands written: acceptance, the wait, the read of `RESULT` (R78). -/
theorem leads_of_command {i : Instr} {s : State} {rest : List HostStmt} (h : Idle s)
    (hm : i ≠ .isprime → s.opm ≠ 0#64) (hscript : s.script = stmtCommand i :: .wait :: stmtRD 5#3 :: rest) :
    Leads s (Delivered i s.opa s.opb s.opm s.readLog rest) := by
  refine .step ?_
  rw [afterStep_command hscript h hm]
  refine (leads_of_accept (s := { s with script := .wait :: stmtRD 5#3 :: rest }) h rfl).bind ?_
  rintro _ ⟨f, ts, c, hstatus, hresult, rfl⟩
  refine .readResult rfl hstatus ⟨rfl, ?_, rfl, hstatus, hresult, rfl, rfl, rfl⟩
  exact (List.append_assoc ..).trans (congrArg (fun v => s.readLog ++ [2#64, v]) hresult)

theorem Leads.operand {s : State} {P : State → Prop} {i : RegIndex} {v : Word} {rest : List HostStmt}
    (hscript : s.script = stmtWR i v :: rest) (hi : i ≠ 3#3) (hbusy : s.status.busy = false)
    (h : Leads (storeRegister i v { s with script := rest }) P) : Leads s P :=
  .step ((afterStep_operand hscript hi hbusy).symm ▸ h)

/-- The pseudo-instruction of a modular command (R78): three operands. -/
theorem leads_of_modular {i : Instr} {a b m : Word} {s : State} {rest : List HostStmt} (h : Idle s)
    (hi : i ≠ .isprime) (hm : m ≠ 0#64) (hscript : s.script = pseudoInstruction i a b m ++ rest) :
    Leads s (Delivered i a b m s.readLog rest) := by
  obtain ⟨hbusy, -⟩ := id h
  have hlist : s.script =
      stmtWR 0#3 a :: stmtWR 1#3 b :: stmtWR 2#3 m :: stmtCommand i :: .wait :: stmtRD 5#3 :: rest := by
    rw [hscript]
    cases i with
    | isprime => exact absurd rfl hi
    | modadd | modsub | modmul | modpow => rfl
  refine .operand hlist (by decide) hbusy (.operand rfl (by decide) hbusy (.operand rfl (by decide) hbusy ?_))
  exact leads_of_command (s := { s with opa := a, opb := b, opm := m, script := _ }) h (fun _ => hm) rfl

/-- The pseudo-instruction of `ISPRIME` (R78): n, in `OPM`. -/
theorem leads_of_isprime {a b m : Word} {s : State} {rest : List HostStmt} (h : Idle s)
    (hscript : s.script = pseudoInstruction .isprime a b m ++ rest) :
    Leads s (Delivered .isprime s.opa s.opb m s.readLog rest) := by
  obtain ⟨hbusy, -⟩ := id h
  refine .operand hscript (by decide) hbusy ?_
  exact leads_of_command (s := { s with opm := m, script := _ }) h (absurd rfl) rfl

end Sys2Proof.Machine

namespace Sys2Proof

open Machine

/-- Settles O49 (R78, R80): the operand writes by their equation, and what follows the write of `CMD` once for all five
commands: each unit pays level A's value in its level-B steps (R35), however the schedule spreads them. -/
theorem pseudoInstructionDeliversItsValue : Obligations.PseudoInstructionDeliversItsValue := by
  intro s i a b m rest h hm hscript
  by_cases hi : i = .isprime
  · subst hi
    obtain ⟨n, t, hrun, ht⟩ := leads_of_isprime h hscript
    exact ⟨n, t, hrun, ht.script, ht.readLog, ht.cmd, ht.status ▸ rfl, ht.result, ht.opm, absurd rfl,
      fun _ => ⟨ht.opa, ht.opb⟩⟩
  · obtain ⟨n, t, hrun, ht⟩ := leads_of_modular h hi (hm hi) hscript
    exact ⟨n, t, hrun, ht.script, ht.readLog, ht.cmd, ht.status ▸ rfl, ht.result, ht.opm,
      fun _ => ⟨ht.opa, ht.opb⟩, fun h => absurd h hi⟩

end Sys2Proof

/-! PROOF of O30. What the two branches of the adder compute, as numbers. -/

namespace Sys2Proof.Machine

theorem sub64_toNat {u v : Word} (h : v.toNat ≤ u.toNat) : (sub64 u v).toNat = u.toNat - v.toNat :=
  BitVec.toNat_sub_of_le h

theorem sub64_toNat_of_lt {u v : Word} (h : u.toNat < v.toNat) : (sub64 u v).toNat = 2 ^ 64 + u.toNat - v.toNat := by
  unfold sub64; bv_omega

theorem add64_toNat {u v : Word} (h : u.toNat + v.toNat < 2 ^ 64) : (add64 u v).toNat = u.toNat + v.toNat :=
  BitVec.toNat_add_of_lt h

theorem add64_toNat_of_le {u v : Word} (h : 2 ^ 64 ≤ u.toNat + v.toNat) :
    (add64 u v).toNat = u.toNat + v.toNat - 2 ^ 64 := by
  unfold add64; bv_omega

theorem modulus_ne_zero_of_lt {u m : Word} (h : u < m) : m ≠ 0#64 := by
  rintro rfl
  exact BitVec.not_lt_zero h

theorem rem64_of_lt {u m : Word} (h : u < m) : rem64 u m = u := by
  rw [rem64_of_ne_zero u (modulus_ne_zero_of_lt h)]
  exact BitVec.umod_eq_of_lt h

/-- The adder's upper branch (R101). -/
theorem ADDM_of_ge {a b m : Word} (h : a ≥ sub64 m b) : ADDM a b m = rem64 (sub64 a (sub64 m b)) m := by
  unfold ADDM
  exact congrArg (rem64 · m) (if_pos h)

/-- The adder's lower branch (R101). -/
theorem ADDM_of_not_ge {a b m : Word} (h : ¬a ≥ sub64 m b) : ADDM a b m = rem64 (add64 a b) m := by
  unfold ADDM
  exact congrArg (rem64 · m) (if_neg h)

/-- R103's three cases, R102 within the first: the adder is off by 2^64 where b exceeds m and the sum wraps. -/
theorem ADDM_toNat (a b : Word) {m : Word} (hm : m ≠ 0#64) :
    (ADDM a b m).toNat =
      (if m.toNat < b.toNat ∧ 2 ^ 64 ≤ a.toNat + b.toNat then a.toNat + b.toNat - 2 ^ 64 else a.toNat + b.toNat)
        % m.toNat := by
  have ha := a.isLt
  by_cases hge : a ≥ sub64 m b
  · rw [ADDM_of_ge hge, rem64_toNat _ hm]
    rw [ge_iff_le, BitVec.le_def] at hge
    rw [sub64_toNat hge]
    rcases Nat.lt_or_ge m.toNat b.toNat with hb | hb
    · rw [sub64_toNat_of_lt hb] at hge ⊢
      rw [if_pos ⟨hb, by omega⟩, Nat.mod_eq_sub_mod (a := a.toNat + b.toNat - 2 ^ 64) (by omega)]
      exact congrArg (· % m.toNat) (by omega)
    · rw [sub64_toNat hb] at hge ⊢
      rw [if_neg (by omega), Nat.mod_eq_sub_mod (a := a.toNat + b.toNat) (by omega)]
      exact congrArg (· % m.toNat) (by omega)
  · rw [ADDM_of_not_ge hge, rem64_toNat _ hm]
    rw [ge_iff_le, BitVec.le_def] at hge
    rcases Nat.lt_or_ge (a.toNat + b.toNat) (2 ^ 64) with hs | hs
    · rw [if_neg (by omega), add64_toNat hs]
    · have hb : m.toNat < b.toNat := by
        by_contra hb
        rw [sub64_toNat (by omega)] at hge
        omega
      rw [if_pos ⟨hb, hs⟩, add64_toNat_of_le hs]

end Sys2Proof.Machine

namespace Sys2Proof

open Machine

/-- Settles O30 (R102): under the precondition s lies in [1, m], so neither branch wraps and both leave t below m. -/
theorem adderMeetsItsContract : Obligations.AdderMeetsItsContract := by
  intro a b m hm ha hb
  have hm0 : m ≠ 0#64 := modulus_ne_zero_of_lt (BitVec.lt_def.mpr ha)
  have hmlt := m.isLt
  have hs : (sub64 m b).toNat = m.toNat - b.toNat := sub64_toNat hb.le
  refine ⟨?_, hs, by omega, by omega, fun hge => ?_, fun hlt => ?_⟩
  · rw [ADDM_toNat a b hm0, if_neg (by omega)]
  · have hle := BitVec.le_def.mp hge
    have ht : (sub64 a (sub64 m b)).toNat = a.toNat + b.toNat - m.toNat := by rw [sub64_toNat hle]; omega
    exact ⟨ht, by omega, (ADDM_of_ge hge).trans (rem64_of_lt (BitVec.lt_def.mpr (by omega)))⟩
  · rw [ge_iff_le, BitVec.le_def] at hlt
    have ht : (add64 a b).toNat = a.toNat + b.toNat := add64_toNat (by omega)
    have hadd : ADDM a b m = rem64 (add64 a b) m := ADDM_of_not_ge (by rwa [ge_iff_le, BitVec.le_def])
    exact ⟨ht, by omega, hadd.trans (rem64_of_lt (BitVec.lt_def.mpr (by omega)))⟩

end Sys2Proof

/-! PROOF of O31. Outside its precondition the adder is off by 2^64 in one case; that shows unless m divides 2^64. An
accepted command raises no fault. -/

namespace Sys2Proof.Machine

/-- Dropping 2^64 does not show modulo a word exactly when the word is a power of two. -/
theorem sub_two_pow_mod_eq_iff {x : Nat} {m : Word} (hx : 2 ^ 64 ≤ x) :
    (x - 2 ^ 64) % m.toNat = x % m.toNat ↔ ∃ k, m.toNat = 2 ^ k := by
  calc (x - 2 ^ 64) % m.toNat = x % m.toNat
      ↔ m.toNat ∣ x - (x - 2 ^ 64) := Nat.modEq_iff_dvd' (Nat.sub_le _ _)
    _ ↔ m.toNat ∣ 2 ^ 64 := by rw [Nat.sub_sub_self hx]
    _ ↔ ∃ k ≤ 64, m.toNat = 2 ^ k := Nat.dvd_prime_pow Nat.prime_two
    _ ↔ ∃ k, m.toNat = 2 ^ k := by
      refine exists_congr fun k => and_iff_right_of_imp fun hk => ?_
      exact ((Nat.pow_lt_pow_iff_right one_lt_two).mp (hk ▸ m.isLt)).le

theorem noFault_blockStep {s : State} (h : NoFault s) : NoFault (blockStep s) := by
  unfold NoFault
  rcases blockStep_status s with hkept | hcompleted
  · rw [hkept]; exact h
  · rw [hcompleted]; exact h

/-- A command an idle block accepts raises no fault, at its command step or after it (R201, R203). -/
theorem exec_noFault {i : Instr} {s : State} (h : Idle s) (hm : i ≠ .isprime → s.opm ≠ 0#64) :
    ∃ t, exec i s = .next t ∧ NoFault t ∧ ∀ k, NoFault (blockSteps k t) := by
  have haccept : NoFault (accept (encode i) s) := h.2
  refine ⟨accept (encode i) s, by rw [exec_eq, commandOf_of_idle h hm], haccept, fun k => ?_⟩
  exact blockSteps_keeps (fun _ _ h => noFault_blockStep h) k _ haccept

end Sys2Proof.Machine

namespace Sys2Proof

open Machine

/-- Settles O31 (R103): each clause is a case of the adder's value as a number. -/
theorem adderOutsideItsContract : Obligations.AdderOutsideItsContract := by
  refine ⟨fun a b m hm => ?_, by decide, by decide, fun s h hopm => exec_noFault h fun _ => hopm⟩
  rw [ADDM_toNat a b hm]
  by_cases hwrap : m.toNat < b.toNat ∧ 2 ^ 64 ≤ a.toNat + b.toNat
  · rw [if_pos hwrap, sub_two_pow_mod_eq_iff hwrap.2]
    refine ⟨by omega, by omega, fun _ _ => rfl, fun hpow => .inr (.inr hpow), ?_⟩
    rintro (hb | hsum | hpow)
    · omega
    · omega
    · exact hpow
  · rw [if_neg hwrap]
    exact ⟨fun _ => rfl, fun _ _ => rfl, fun hb hsum => absurd ⟨hb, hsum⟩ hwrap, by omega⟩

end Sys2Proof

/-! PROOF of O34. The loops of MUL and POW keep R below the modulus. That of POW starts at 1, which is not below 1; the
top bit of an exponent that is not 0 makes it so. -/

namespace Sys2Proof.Machine

theorem ADDM_lt (a b : Word) {m : Word} (hm : m ≠ 0#64) : ADDM a b m < m := rem64_lt _ hm

theorem SUBM_lt (a b : Word) {m : Word} (hm : m ≠ 0#64) : SUBM a b m < m := rem64_lt _ hm

theorem mulLoop_lt {m : Word} (hm : m ≠ 0#64) :
    ∀ (fuel : Nat) (A B R : Word), R < m → mulLoop fuel A B R m < m := by
  intro fuel
  induction fuel with
  | zero => exact fun _ _ _ hR => hR
  | succ fuel ih =>
    intro A B R hR
    rw [mulLoop_succ]
    split
    · exact hR
    · refine ih _ _ _ ?_
      split
      · exact ADDM_lt _ _ hm
      · exact hR

theorem MULM_lt (a b : Word) {m : Word} (hm : m ≠ 0#64) : MULM a b m < m :=
  mulLoop_lt hm _ _ _ _ (BitVec.lt_def.mpr (toNat_pos_of_ne_zero hm))

/-- As long as R is not below m, a bit of the exponent is still to come that puts it there. -/
theorem powLoop_lt {m : Word} (hm : m ≠ 0#64) : ∀ (fuel : Nat) (A B R : Word), B.toNat < 2 ^ fuel →
    B ≠ 0#64 ∨ R < m → powLoop fuel A B R m < m := by
  intro fuel
  induction fuel with
  | zero =>
    intro A B R hfuel h
    exact h.resolve_left (not_not_intro (BitVec.eq_of_toNat_eq (by simpa using hfuel)))
  | succ fuel ih =>
    intro A B R hfuel h
    rw [powLoop_succ]
    split
    next hB => exact h.resolve_left (not_not_intro hB)
    next hB =>
      refine ih _ _ _ (shr1_lt hfuel) ?_
      split
      · exact .inr (MULM_lt _ _ hm)
      next hlow => exact .inl (shr1_ne_zero hB (Bool.eq_false_of_not_eq_true hlow))

theorem POWM_lt (a : Word) {b m : Word} (hm : m ≠ 0#64) (h : b ≠ 0#64 ∨ 1#64 < m) : POWM a b m < m :=
  powLoop_lt hm _ _ _ _ (lt_two_pow_bitlen b) h

theorem POWM_zero (a m : Word) : POWM a 0#64 m = 1#64 := powWhile_done ..

theorem eq_zero_of_lt_one {u : Word} (h : u < 1#64) : u = 0#64 :=
  BitVec.eq_of_toNat_eq (Nat.lt_one_iff.mp (BitVec.lt_def.mp h))

end Sys2Proof.Machine

namespace Sys2Proof

open Machine

/-- Settles O34 (R104, R114, R124, R139): ADD and SUB end in a reduction, and the loops keep the range of theirs. -/
theorem resultsLieBelowTheModulus : Obligations.ResultsLieBelowTheModulus := by
  intro a b m hm
  refine ⟨ADDM_lt a b hm, SUBM_lt a b hm, MULM_lt a b hm, fun h2 => POWM_lt a hm (.inr (BitVec.lt_def.mpr h2)), ?_⟩
  rintro rfl
  refine ⟨eq_zero_of_lt_one (MULM_lt a b hm), fun hb => eq_zero_of_lt_one (POWM_lt a hm (.inl hb)), ?_⟩
  rintro rfl
  exact POWM_zero a 1#64

end Sys2Proof

/-! PROOF of O35. On the contract domain the adder and the subtractor are addition and subtraction modulo m. -/

namespace Sys2Proof.Machine

theorem SUBM_of_lt {a b : Word} (m : Word) (h : a < b) : SUBM a b m = rem64 (sub64 (add64 a m) b) m := by
  unfold SUBM
  exact congrArg (rem64 · m) (if_pos h)

theorem SUBM_of_not_lt {a b : Word} (m : Word) (h : ¬a < b) : SUBM a b m = rem64 (sub64 a b) m := by
  unfold SUBM
  exact congrArg (rem64 · m) (if_neg h)

theorem SUBM_self (a : Word) {m : Word} (hm : m ≠ 0#64) : SUBM a a m = 0#64 := by
  rw [SUBM_of_not_lt m (BitVec.lt_irrefl a), sub64, BitVec.sub_self, rem64_of_ne_zero _ hm, BitVec.zero_umod]

theorem SUBM_zero (a m : Word) : SUBM a 0#64 m = rem64 a m := by
  rw [SUBM_of_not_lt m BitVec.not_lt_zero, sub64, BitVec.sub_zero]

theorem ADDM_zero (a : Word) {m : Word} (hm : m ≠ 0#64) : ADDM a 0#64 m = rem64 a m := by
  refine BitVec.eq_of_toNat_eq ?_
  rw [ADDM_toNat a _ hm, if_neg (fun h => Nat.not_lt_zero _ h.1), rem64_toNat a hm]
  rfl

section Contract

variable {a b m : Word} (ha : a < m) (hb : b < m)

include ha hb

theorem ADDM_toNat_of_lt : (ADDM a b m).toNat = (a.toNat + b.toNat) % m.toNat := by
  rw [ADDM_toNat a b (modulus_ne_zero_of_lt ha), if_neg]
  rw [BitVec.lt_def] at hb
  omega

theorem SUBM_toNat_of_lt : (SUBM a b m).toNat = (a.toNat + m.toNat - b.toNat) % m.toNat := by
  have hm := modulus_ne_zero_of_lt ha
  rw [BitVec.lt_def] at ha hb
  by_cases hlt : a < b
  · rw [SUBM_of_lt m hlt, rem64_toNat _ hm]
    refine congrArg (· % m.toNat) ?_
    rw [BitVec.lt_def] at hlt
    unfold sub64 add64
    bv_omega
  · rw [SUBM_of_not_lt m hlt, rem64_toNat _ hm]
    rw [BitVec.lt_def] at hlt
    rw [sub64_toNat (by omega), Nat.mod_eq_sub_mod (a := a.toNat + m.toNat - b.toNat) (by omega)]
    exact congrArg (· % m.toNat) (by omega)

theorem ADDM_comm : ADDM a b m = ADDM b a m :=
  BitVec.eq_of_toNat_eq (by rw [ADDM_toNat_of_lt ha hb, ADDM_toNat_of_lt hb ha, Nat.add_comm])

theorem SUBM_ADDM_cancel : SUBM (ADDM a b m) b m = a := by
  have hm := modulus_ne_zero_of_lt ha
  refine BitVec.eq_of_toNat_eq ?_
  have hsum : a.toNat + b.toNat + (m.toNat - b.toNat) = a.toNat + m.toNat := by rw [BitVec.lt_def] at hb; omega
  rw [SUBM_toNat_of_lt (ADDM_lt a b hm) hb, ADDM_toNat_of_lt ha hb, Nat.add_sub_assoc hb.le, Nat.mod_add_mod, hsum,
    Nat.add_mod_right, Nat.mod_eq_of_lt ha]

theorem ADDM_SUBM_cancel : ADDM (SUBM a b m) b m = a := by
  have hm := modulus_ne_zero_of_lt ha
  refine BitVec.eq_of_toNat_eq ?_
  have hle : b.toNat ≤ a.toNat + m.toNat := by rw [BitVec.lt_def] at hb; omega
  rw [ADDM_toNat_of_lt (SUBM_lt a b hm) hb, SUBM_toNat_of_lt ha hb, Nat.mod_add_mod, Nat.sub_add_cancel hle,
    Nat.add_mod_right, Nat.mod_eq_of_lt ha]

end Contract

end Sys2Proof.Machine

namespace Sys2Proof

open Machine

/-- Settles O35 (R105, R115): each law is one of addition and subtraction modulo m; 0 and 1 modulo 3 do not commute. -/
theorem addAndSubLaws : Obligations.AddAndSubLaws := by
  refine ⟨fun a b m hm => ⟨SUBM_self a hm, SUBM_zero a m, ADDM_zero a hm, fun ha hb => ?_⟩,
    0#64, 1#64, 3#64, by decide, by decide, by decide⟩
  exact ⟨ADDM_comm ha hb, (ADDM_zero a hm).trans (rem64_of_lt ha), SUBM_ADDM_cancel ha hb, ADDM_SUBM_cancel ha hb⟩

end Sys2Proof

/-! PROOF of O32. The subtractor's value as a number, and that it is the difference unless b exceeds a + m. -/

namespace Sys2Proof.Machine

/-- The upper branch of SUB (R111) where a + m reaches b: the sum may wrap, and then the difference wraps back. -/
theorem sub64_add64_toNat {a b m : Word} (hlt : a.toNat < b.toNat) (h : b.toNat ≤ a.toNat + m.toNat) :
    (sub64 (add64 a m) b).toNat = a.toNat + m.toNat - b.toNat := by
  have hb := b.isLt
  rcases Nat.lt_or_ge (a.toNat + m.toNat) (2 ^ 64) with hs | hs
  · rw [sub64_toNat (by rwa [add64_toNat hs]), add64_toNat hs]
  · have hadd := add64_toNat_of_le hs
    have hm := m.isLt
    rw [sub64_toNat_of_lt (by omega), hadd]
    omega

/-- The upper branch of SUB (R111) where a + m stays below b (R113): only the difference wraps. -/
theorem sub64_add64_toNat_of_lt {a b m : Word} (h : a.toNat + m.toNat < b.toNat) :
    (sub64 (add64 a m) b).toNat = 2 ^ 64 + a.toNat + m.toNat - b.toNat := by
  have hadd : (add64 a m).toNat = a.toNat + m.toNat := add64_toNat (h.trans b.isLt)
  rw [sub64_toNat_of_lt (by rwa [hadd]), hadd, Nat.add_assoc]

/-- R112 and R113: the subtractor is off by 2^64 where a + m stays below b. -/
theorem SUBM_toNat (a b : Word) {m : Word} (hm : m ≠ 0#64) :
    (SUBM a b m).toNat =
      (if a.toNat + m.toNat < b.toNat then 2 ^ 64 + a.toNat - b.toNat else a.toNat + m.toNat - b.toNat) % m.toNat := by
  have hb := b.isLt
  by_cases hlt : a < b
  · rw [SUBM_of_lt m hlt, rem64_toNat _ hm]
    split
    next hwrap =>
      rw [sub64_add64_toNat_of_lt hwrap, Nat.mod_eq_sub_mod (by omega)]
      exact congrArg (· % m.toNat) (by omega)
    next hwrap => rw [sub64_add64_toNat (BitVec.lt_def.mp hlt) (Nat.le_of_not_lt hwrap)]
  · rw [SUBM_of_not_lt m hlt, rem64_toNat _ hm]
    rw [BitVec.lt_def] at hlt
    rw [if_neg (by omega), sub64_toNat (by omega), Nat.mod_eq_sub_mod (a := a.toNat + m.toNat - b.toNat) (by omega)]
    exact congrArg (· % m.toNat) (by omega)

/-- R112: the subtractor is the difference modulo m where b is at most a + m. -/
theorem SUBM_eq_emod (a b : Word) {m : Word} (hm : m ≠ 0#64) (h : b.toNat ≤ a.toNat + m.toNat) :
    ((SUBM a b m).toNat : Int) = ((a.toNat : Int) - (b.toNat : Int)) % (m.toNat : Int) := by
  rw [SUBM_toNat a b hm, if_neg (Nat.not_lt.mpr h), Int.natCast_emod, Nat.cast_sub h, Nat.cast_add,
    add_sub_right_comm, Int.add_emod_right]

end Sys2Proof.Machine

namespace Sys2Proof

open Machine

/-- Settles O32 (R112): either precondition puts b at or below a + m, and operands below m meet the first. -/
theorem subtractorMeetsItsContract : Obligations.SubtractorMeetsItsContract := by
  intro a b m hm
  have hm0 : m ≠ 0#64 := modulus_ne_zero_of_lt (u := 0#64) (BitVec.lt_def.mpr hm)
  exact ⟨fun h => SUBM_eq_emod a b hm0 (by omega), fun _ _ => SUBM_eq_emod a b hm0 (by omega)⟩

end Sys2Proof

/-! PROOF of O33. Where b exceeds a + m the subtractor is off by 2^64, which shows unless m divides 2^64. -/

namespace Sys2Proof.Machine

theorem dvd_two_pow_iff {m : Word} : m.toNat ∣ 2 ^ 64 ↔ ∃ k, m.toNat = 2 ^ k := by
  rw [← sub_two_pow_mod_eq_iff (le_refl (2 ^ 64)), Nat.sub_self, Nat.zero_mod, Nat.dvd_iff_mod_eq_zero, eq_comm]

/-- R113: where b exceeds a + m, the subtractor is the difference modulo m exactly when m is a power of two. -/
theorem SUBM_eq_emod_iff_of_lt {a b m : Word} (hm : m ≠ 0#64) (h : a.toNat + m.toNat < b.toNat) :
    ((SUBM a b m).toNat : Int) = ((a.toNat : Int) - (b.toNat : Int)) % (m.toNat : Int) ↔ ∃ k, m.toNat = 2 ^ k := by
  have hvalue : ((SUBM a b m).toNat : Int) = ((a.toNat : Int) - b.toNat + (2 ^ 64 : Nat)) % m.toNat := by
    have hb := b.isLt
    rw [SUBM_toNat a b hm, if_pos h, Int.natCast_emod]
    exact congrArg (· % (m.toNat : Int)) (by omega)
  rw [hvalue, Int.emod_eq_emod_iff_emod_sub_eq_zero, add_sub_cancel_left, ← Int.dvd_iff_emod_eq_zero,
    Int.natCast_dvd_natCast, dvd_two_pow_iff]

end Sys2Proof.Machine

namespace Sys2Proof

open Machine

/-- Settles O33 (R113): b exceeds a + m, where the subtractor is off by 2^64, or R112's contract holds. -/
theorem subtractorOutsideItsContract : Obligations.SubtractorOutsideItsContract := by
  refine ⟨fun a b m hm => ⟨fun hlt hwrap => ?_, SUBM_lt a b hm, ?_⟩, by decide,
    fun s h hopm => exec_noFault h fun _ => hopm⟩
  · have hsum : a.toNat + m.toNat < b.toNat := by omega
    exact ⟨sub64_add64_toNat_of_lt hsum, by rw [SUBM_toNat a b hm, if_pos hsum]⟩
  · rcases Nat.lt_or_ge (a.toNat + m.toNat) b.toNat with hwrap | hle
    · rw [SUBM_eq_emod_iff_of_lt hm hwrap]
      exact ⟨fun hpow => .inr (.inr hpow), fun h => (h.resolve_left (by omega)).resolve_left (by omega)⟩
    · exact iff_of_true (SUBM_eq_emod a b hm hle) (by omega)

end Sys2Proof

/-! PROOF of O36. An iteration of MUL keeps R + A * B modulo m: R takes A times the low bit of B, and 2A times half of B
is A times the rest. Where B is 0, R alone is left. -/

namespace Sys2Proof.Machine

theorem ADDM_modEq {a b m : Word} (ha : a < m) (hb : b < m) : (ADDM a b m).toNat ≡ a.toNat + b.toNat [MOD m.toNat] := by
  rw [ADDM_toNat_of_lt ha hb]
  exact Nat.mod_modEq _ _

theorem rem64_modEq (u : Word) {m : Word} (hm : m ≠ 0#64) : (rem64 u m).toNat ≡ u.toNat [MOD m.toNat] := by
  rw [rem64_toNat u hm]
  exact Nat.mod_modEq _ _

section Loop

variable {q : MulRegs} (ha : q.a < q.m) (hr : q.r < q.m)

include ha

theorem mulIterate_a_lt : (mulIterate q).a < q.m := ADDM_lt _ _ (modulus_ne_zero_of_lt ha)

include hr

theorem mulIterate_r_lt : (mulIterate q).r < q.m := by
  unfold mulIterate
  dsimp only
  split
  · exact ADDM_lt _ _ (modulus_ne_zero_of_lt ha)
  · exact hr

theorem mulIterate_r_modEq :
    (mulIterate q).r.toNat ≡ q.r.toNat + q.a.toNat * (q.b.toNat % 2) [MOD q.m.toNat] := by
  simp only [mulIterate, lowBit_eq, decide_eq_true_eq]
  split
  next hodd =>
    rw [hodd, Nat.mul_one]
    exact ADDM_modEq hr ha
  next heven => rw [Nat.mod_two_ne_one.mp heven, Nat.mul_zero, Nat.add_zero]

/-- I2 of R123: what an iteration keeps. -/
theorem mulIterate_modEq :
    (mulIterate q).r.toNat + (mulIterate q).a.toNat * (mulIterate q).b.toNat ≡
      q.r.toNat + q.a.toNat * q.b.toNat [MOD q.m.toNat] :=
  calc (mulIterate q).r.toNat + (mulIterate q).a.toNat * (shr1 q.b).toNat
      ≡ q.r.toNat + q.a.toNat * (q.b.toNat % 2) + (q.a.toNat + q.a.toNat) * (shr1 q.b).toNat [MOD q.m.toNat] :=
        (mulIterate_r_modEq ha hr).add ((ADDM_modEq ha ha).mul_right _)
    _ = q.r.toNat + q.a.toNat * (q.b.toNat % 2 + 2 * (q.b.toNat / 2)) := by rw [shr1_toNat]; ring
    _ = q.r.toNat + q.a.toNat * q.b.toNat := by rw [Nat.mod_add_div]

/-- The loop of MUL computes R + A * B modulo m. -/
theorem mulWhile_toNat : (mulWhile q.a q.b q.r q.m).toNat = (q.r.toNat + q.a.toNat * q.b.toNat) % q.m.toNat := by
  induction hk : bitlen q.b generalizing q with
  | zero =>
    rw [bitlen_eq_zero_iff.mp hk, mulWhile_done]
    exact (Nat.mod_eq_of_lt (BitVec.lt_def.mp hr)).symm
  | succ k ih =>
    have hb : q.b ≠ 0#64 := fun hb => Nat.succ_ne_zero k (hk.symm.trans (bitlen_eq_zero_iff.mpr hb))
    rw [bitlen_shr1 hb] at hk
    rw [mulWhile_unroll _ _ _ hb]
    exact (ih (q := mulIterate q) (mulIterate_a_lt ha) (mulIterate_r_lt ha hr) (Nat.succ.inj hk)).trans
      (mulIterate_modEq ha hr)

end Loop

section Load

variable (a b : Word) {m : Word} (hm : m ≠ 0#64)

include hm

theorem mulLoad_a_lt : (mulLoad a b m).a < m := rem64_lt a hm

theorem mulLoad_r_lt : (mulLoad a b m).r < m := BitVec.lt_def.mpr (toNat_pos_of_ne_zero hm)

/-- I2 of R123 after the load. -/
theorem mulLoad_modEq :
    (mulLoad a b m).r.toNat + (mulLoad a b m).a.toNat * (mulLoad a b m).b.toNat ≡ a.toNat * b.toNat [MOD m.toNat] :=
  calc 0 + (rem64 a m).toNat * b.toNat = (rem64 a m).toNat * b.toNat := Nat.zero_add _
    _ ≡ a.toNat * b.toNat [MOD m.toNat] := (rem64_modEq a hm).mul_right _

/-- R123: the multiplier is exact for all operands. -/
theorem MULM_toNat : (MULM a b m).toNat = a.toNat * b.toNat % m.toNat :=
  (mulWhile_toNat (q := mulLoad a b m) (mulLoad_a_lt a b hm) (mulLoad_r_lt a b hm)).trans (mulLoad_modEq a b hm)

end Load

end Sys2Proof.Machine

namespace Sys2Proof

open Machine

/-- Settles O36 (R123): the load establishes I1 and I2, an iteration keeps them, and at B = 0 they give the product. -/
theorem multiplierIsExact : Obligations.MultiplierIsExact := by
  intro a b m hm
  refine ⟨MULM_toNat a b hm, ⟨mulLoad_a_lt a b hm, mulLoad_r_lt a b hm, mulLoad_modEq a b hm⟩, ?_⟩
  rintro q rfl - ha hr hvalue
  exact ⟨mulIterate_a_lt ha, mulIterate_r_lt ha hr, (mulIterate_modEq ha hr).trans hvalue⟩

end Sys2Proof

/-! PROOF of O37. The laws of MULM are those of the product modulo m; each iteration takes one bit off B. -/

namespace Sys2Proof.Machine

theorem MULM_zero_right (a m : Word) : MULM a 0#64 m = 0#64 := mulWhile_done ..

section Laws

variable (a b : Word) {m : Word} (hm : m ≠ 0#64)

include hm

theorem MULM_comm : MULM a b m = MULM b a m :=
  BitVec.eq_of_toNat_eq (by rw [MULM_toNat a b hm, MULM_toNat b a hm, Nat.mul_comm])

theorem MULM_one_right : MULM a 1#64 m = rem64 a m :=
  BitVec.eq_of_toNat_eq (by rw [MULM_toNat a _ hm, rem64_toNat a hm]; exact congrArg (· % m.toNat) (Nat.mul_one _))

theorem MULM_zero_left : MULM 0#64 b m = 0#64 := (MULM_comm _ b hm).trans (MULM_zero_right b m)

theorem MULM_rem64_rem64 : MULM (rem64 a m) (rem64 b m) m = MULM a b m :=
  BitVec.eq_of_toNat_eq (by
    rw [MULM_toNat _ _ hm, MULM_toNat a b hm]
    exact (rem64_modEq a hm).mul (rem64_modEq b hm))

end Laws

theorem bitlen_mulIterations (k : Nat) (q : MulRegs) : bitlen (mulIterations k q).b = bitlen q.b - k := by
  induction k generalizing q with
  | zero => rfl
  | succ k ih =>
    rw [mulIterations]
    split
    next hb => rw [bitlen_eq_zero_iff.mpr hb, Nat.zero_sub]
    next hb =>
      rw [ih, bitlen_shr1 hb, Nat.add_sub_add_right]
      rfl

theorem mulIterations_b_eq_zero_iff (k : Nat) (q : MulRegs) : (mulIterations k q).b = 0#64 ↔ bitlen q.b ≤ k := by
  rw [← bitlen_eq_zero_iff, bitlen_mulIterations, Nat.sub_eq_zero_iff_le]

end Sys2Proof.Machine

namespace Sys2Proof

open Machine

/-- Settles O37 (R125): the laws of the product modulo m (R123), and B is 0 once `bitlen(b)` bits have been taken. -/
theorem multiplierLaws : Obligations.MultiplierLaws := by
  intro a b m hm
  refine ⟨MULM_comm a b hm, MULM_one_right a hm, MULM_zero_right a m, MULM_zero_left b hm,
    (MULM_rem64_rem64 a b hm).symm, fun k hk => ?_, (mulIterations_b_eq_zero_iff ..).mpr le_rfl⟩
  exact (mulIterations_b_eq_zero_iff ..).not.mpr (Nat.not_le.mpr hk)

end Sys2Proof

/-! PROOF of O38. An iteration of POW keeps R * A ^ B modulo m: R takes A to the low bit of B, and A squared, to half of
B, is A to the rest. Where B is 0, R alone is left; it is below m if 1 is, or if the exponent has a bit set. -/

namespace Sys2Proof.Machine

theorem MULM_modEq (a b : Word) {m : Word} (hm : m ≠ 0#64) : (MULM a b m).toNat ≡ a.toNat * b.toNat [MOD m.toNat] := by
  rw [MULM_toNat a b hm]
  exact Nat.mod_modEq _ _

section Iterate

variable {p : PowRegs} (hm : p.m ≠ 0#64)

include hm

theorem powIterate_a_lt : (powIterate p).a < p.m := MULM_lt _ _ hm

theorem powIterate_r_lt (hr : p.r < p.m) : (powIterate p).r < p.m := by
  unfold powIterate
  dsimp only
  split
  · exact MULM_lt _ _ hm
  · exact hr

theorem powIterate_r_modEq :
    (powIterate p).r.toNat ≡ p.r.toNat * p.a.toNat ^ (p.b.toNat % 2) [MOD p.m.toNat] := by
  simp only [powIterate, lowBit_eq, decide_eq_true_eq]
  split
  next hodd =>
    rw [hodd, pow_one]
    exact MULM_modEq _ _ hm
  next heven => rw [Nat.mod_two_ne_one.mp heven, pow_zero, Nat.mul_one]

/-- J2 of R138: what an iteration keeps, whatever A and R hold. -/
theorem powIterate_modEq :
    (powIterate p).r.toNat * (powIterate p).a.toNat ^ (powIterate p).b.toNat ≡
      p.r.toNat * p.a.toNat ^ p.b.toNat [MOD p.m.toNat] :=
  calc (powIterate p).r.toNat * (powIterate p).a.toNat ^ (shr1 p.b).toNat
      ≡ p.r.toNat * p.a.toNat ^ (p.b.toNat % 2) * (p.a.toNat * p.a.toNat) ^ (shr1 p.b).toNat [MOD p.m.toNat] :=
        (powIterate_r_modEq hm).mul ((MULM_modEq _ _ hm).pow _)
    _ = p.r.toNat * p.a.toNat ^ (p.b.toNat % 2 + 2 * (p.b.toNat / 2)) := by
        rw [shr1_toNat, ← pow_two, ← pow_mul, mul_assoc, ← pow_add]
    _ = p.r.toNat * p.a.toNat ^ p.b.toNat := by rw [Nat.mod_add_div]

/-- The loop of POW computes R * A ^ B modulo m. -/
theorem powWhile_modEq : (powWhile p.a p.b p.r p.m).toNat ≡ p.r.toNat * p.a.toNat ^ p.b.toNat [MOD p.m.toNat] := by
  induction hk : bitlen p.b generalizing p with
  | zero =>
    rw [bitlen_eq_zero_iff.mp hk, powWhile_done, BitVec.toNat_zero, pow_zero, Nat.mul_one]
  | succ k ih =>
    have hb : p.b ≠ 0#64 := fun hb => Nat.succ_ne_zero k (hk.symm.trans (bitlen_eq_zero_iff.mpr hb))
    rw [bitlen_shr1 hb] at hk
    rw [powWhile_unroll _ _ _ hb]
    exact (ih (p := powIterate p) hm (Nat.succ.inj hk)).trans (powIterate_modEq hm)

end Iterate

section Load

variable (a b : Word) {m : Word} (hm : m ≠ 0#64)

include hm

theorem powLoad_a_lt : (powLoad a b m).a < m := rem64_lt a hm

/-- J2 of R138 after the load. -/
theorem powLoad_modEq :
    (powLoad a b m).r.toNat * (powLoad a b m).a.toNat ^ (powLoad a b m).b.toNat ≡ a.toNat ^ b.toNat [MOD m.toNat] :=
  calc 1 * (rem64 a m).toNat ^ b.toNat = (rem64 a m).toNat ^ b.toNat := Nat.one_mul _
    _ ≡ a.toNat ^ b.toNat [MOD m.toNat] := (rem64_modEq a hm).pow _

theorem POWM_modEq : (POWM a b m).toNat ≡ a.toNat ^ b.toNat [MOD m.toNat] :=
  (powWhile_modEq (p := powLoad a b m) hm).trans (powLoad_modEq a b hm)

/-- R138: the exponentiator is exact, except for b = 0 and m = 1. -/
theorem POWM_toNat (h : b ≠ 0#64 ∨ 1#64 < m) : (POWM a b m).toNat = a.toNat ^ b.toNat % m.toNat :=
  (Nat.mod_eq_of_modEq (POWM_modEq a b hm).symm (BitVec.lt_def.mp (POWM_lt a hm h))).symm

end Load

end Sys2Proof.Machine

namespace Sys2Proof

open Machine

/-- Settles O38 (R138): the load establishes J1 and J2, an iteration keeps them, and at B = 0 they give the power. For
m = 1 the loop's first set bit makes R 0; without one it stays 1. -/
theorem exponentiatorIsExact : Obligations.ExponentiatorIsExact := by
  refine ⟨fun a b m h2 => ?_, fun a => POWM_zero a _, fun a b hb => eq_zero_of_lt_one (POWM_lt a (by decide) (.inl hb))⟩
  have h1 : 1#64 < m := BitVec.lt_def.mpr h2
  have hm : m ≠ 0#64 := modulus_ne_zero_of_lt h1
  refine ⟨POWM_toNat a b hm (.inr h1), ⟨powLoad_a_lt a b hm, h1, powLoad_modEq a b hm⟩, ?_⟩
  rintro q rfl - - hr hvalue
  exact ⟨powIterate_a_lt hm, powIterate_r_lt hm hr, (powIterate_modEq hm).trans hvalue⟩

end Sys2Proof

/-! PROOF of O39. The laws of POWM are those of the power modulo m. -/

namespace Sys2Proof.Machine

section Laws

variable (a b : Word) {m : Word} (hm : m ≠ 0#64)

include hm

theorem rem64_rem64 : rem64 (rem64 a m) m = rem64 a m := rem64_of_lt (rem64_lt a hm)

theorem POWM_one : POWM a 1#64 m = rem64 a m :=
  BitVec.eq_of_toNat_eq (by
    rw [POWM_toNat a 1#64 hm (.inl (by decide)), rem64_toNat a hm]
    exact congrArg (· % m.toNat) (pow_one _))

theorem POWM_rem64 : POWM (rem64 a m) b m = POWM a b m := by
  rw [POWM, rem64_rem64 a hm, POWM]

end Laws

/-- R140: one more factor, where the exponent does not wrap. -/
theorem POWM_add_one (a : Word) {b m : Word} (hm : 1#64 < m) (hb : b.toNat + 1 < 2 ^ 64) :
    POWM a (b + 1#64) m = MULM (POWM a b m) a m := by
  have hm0 : m ≠ 0#64 := modulus_ne_zero_of_lt hm
  have hsucc : (b + 1#64).toNat = b.toNat + 1 := BitVec.toNat_add_of_lt hb
  refine BitVec.eq_of_toNat_eq ?_
  rw [POWM_toNat a _ hm0 (.inr hm), MULM_toNat _ _ hm0, hsucc, pow_succ]
  exact ((POWM_modEq a b hm0).mul_right _).symm

end Sys2Proof.Machine

namespace Sys2Proof

open Machine

/-- Settles O39 (R140): each law is one of the power modulo m (R138), or holds of the reduction at the load. -/
theorem exponentiatorLaws : Obligations.ExponentiatorLaws := by
  intro a b m hm
  exact ⟨POWM_zero a m, POWM_one a hm, (POWM_rem64 a b hm).symm, fun h2 hb => POWM_add_one a (BitVec.lt_def.mpr h2) hb⟩

end Sys2Proof

/-! PROOF of O40. `MRV` by the class of its input (R151, R152): below 2, 2 or 3, even, and the odd inputs from 5 on.
`MRE.Classify` makes the same tests in the same order, and on a trivial input it does no more than finish with `MRV`. -/

namespace Sys2Proof.Machine

section Classes

variable {n : Word}

theorem MRV_of_lt_two (h : n.toNat < 2) : MRV n = false := by
  rw [MRV, if_pos (BitVec.lt_def.mpr h)]

theorem MRV_of_two_or_three (h : n = 2#64 ∨ n = 3#64) : MRV n = true := by
  have hge : ¬n < 2#64 := by rcases h with rfl | rfl <;> decide
  rw [MRV, if_neg hge, if_pos h]

/-- From 4 on, the low bit decides between verdict 0 and the base loop. -/
theorem MRV_of_four_le (h : 4 ≤ n.toNat) :
    MRV n = if lowBit n then
      baseLoop Config.baseTable.toList (halveWhile (sub64 n 1#64) 0).1 (halveWhile (sub64 n 1#64) 0).2 n
    else false := by
  have hge : ¬n < 2#64 := by bv_omega
  have hne : ¬(n = 2#64 ∨ n = 3#64) := by bv_omega
  rw [MRV, if_neg hge, if_neg hne]
  cases lowBit n <;> rfl

theorem MRV_of_even (h : 4 ≤ n.toNat) (heven : n.toNat % 2 = 0) : MRV n = false := by
  have hlow : ¬lowBit n = true := by rw [lowBit_eq, decide_eq_true_eq]; omega
  rw [MRV_of_four_le h, if_neg hlow]

theorem MRV_of_odd (h : 5 ≤ n.toNat) (hodd : n.toNat % 2 = 1) :
    MRV n = baseLoop Config.baseTable.toList (halveWhile (sub64 n 1#64) 0).1 (halveWhile (sub64 n 1#64) 0).2 n := by
  have hlow : lowBit n = true := by rwa [lowBit_eq, decide_eq_true_eq]
  rw [MRV_of_four_le (by omega), if_pos hlow]

end Classes

/-- R152: on a trivial input `MRE.Classify` finishes with `MRV` (R158), and so touches no register of a unit. -/
theorem mreClassify_of_trivial {s : State} (h : s.mre.n.toNat < 5 ∨ s.mre.n.toNat % 2 = 0) :
    mreClassify s = finish (MRV s.mre.n) s := by
  rw [mreClassify]
  by_cases hlt : s.mre.n < 2#64
  · rw [if_pos hlt, MRV_of_lt_two (BitVec.lt_def.mp hlt)]
  rw [if_neg hlt]
  by_cases htwo : s.mre.n = 2#64 ∨ s.mre.n = 3#64
  · rw [if_pos htwo, MRV_of_two_or_three htwo]
  have hge : 4 ≤ s.mre.n.toNat := by bv_omega
  have heven : s.mre.n.toNat % 2 = 0 := by omega
  have hlow : lowBit s.mre.n = false := by rw [lowBit_eq, heven]; rfl
  rw [if_neg htwo, hlow, MRV_of_even hge heven]
  rfl

end Sys2Proof.Machine

namespace Sys2Proof

open Machine

/-- Settles O40 (R152): `MRV` class by class, and `MRE.Classify`, which on a trivial input only finishes. -/
theorem trivialInputsAreClassified : Obligations.TrivialInputsAreClassified :=
  ⟨MRV_of_lt_two (by decide), MRV_of_lt_two (by decide), MRV_of_two_or_three (.inl rfl),
    MRV_of_two_or_three (.inr rfl), fun _ => MRV_of_even, fun _ => MRV_of_odd, fun _ => mreClassify_of_trivial⟩

end Sys2Proof

/-! PROOF of O41. The halving loop keeps `d * 2^r` and stops at an odd d (R153). An odd d and an r with a given
`d * 2^r` are unique, so what such a split is bounded by, the loop's result is. -/

namespace Sys2Proof.Machine

/-! ## An odd number times a power of two -/

/-- The power of two in one split divides the power of two in any split with an odd d. -/
theorem exponent_le_of_odd {x a b i j : Nat} (ha : x = a * 2 ^ i) (hb : x = b * 2 ^ j) (hodd : b % 2 = 1) :
    i ≤ j := by
  have hcoprime : Nat.Coprime (2 ^ i) b := (Nat.coprime_two_left.mpr (Nat.odd_iff.mpr hodd)).pow_left i
  have hdvd : 2 ^ i ∣ b * 2 ^ j := ⟨a, by rw [← hb, ha, mul_comm]⟩
  exact (Nat.pow_dvd_pow_iff_le_right one_lt_two).mp (hcoprime.dvd_of_dvd_mul_left hdvd)

section Split

variable {x d r : Nat} (hx : x = d * 2 ^ r) (hd : d % 2 = 1)

include hx hd

theorem odd_mul_two_pow_unique {d' r' : Nat} (hx' : x = d' * 2 ^ r') (hd' : d' % 2 = 1) : d = d' ∧ r = r' := by
  obtain rfl : r = r' := le_antisymm (exponent_le_of_odd hx hx' hd') (exponent_le_of_odd hx' hx hd)
  exact ⟨Nat.eq_of_mul_eq_mul_right (Nat.two_pow_pos r) (hx.symm.trans hx'), rfl⟩

/-- An even number has at least one factor two to split off. -/
theorem exponent_pos_of_even (heven : x % 2 = 0) : 1 ≤ r := by
  rcases r with _ | r
  · rw [pow_zero, mul_one] at hx; omega
  · exact Nat.succ_pos r

theorem odd_factor_le_half (heven : x % 2 = 0) : d ≤ x / 2 := by
  obtain ⟨k, rfl⟩ := Nat.exists_eq_add_of_le' (exponent_pos_of_even hx hd heven)
  rw [Nat.le_div_iff_mul_le two_pos, hx, pow_succ']
  exact Nat.mul_le_mul_left d (Nat.le_mul_of_pos_right 2 (Nat.two_pow_pos k))

theorem two_pow_exponent_le : 2 ^ r ≤ x := hx ▸ Nat.le_mul_of_pos_left _ (by omega)

theorem exponent_lt_of_lt_two_pow {w : Nat} (hlt : x < 2 ^ w) : r < w :=
  (Nat.pow_lt_pow_iff_right one_lt_two).mp ((two_pow_exponent_le hx hd).trans_lt hlt)

/-- The largest exponent below width `w + 1` belongs to `2^w` alone. -/
theorem exponent_eq_iff {w : Nat} (hlt : x < 2 ^ (w + 1)) : r = w ↔ x = 2 ^ w := by
  constructor
  · rintro rfl
    rw [pow_succ', hx, Nat.mul_lt_mul_right (Nat.two_pow_pos r)] at hlt
    have hone : d = 1 := by omega
    rw [hx, hone, one_mul]
  · intro hw
    exact (odd_mul_two_pow_unique hx hd (hw.trans (one_mul _).symm) rfl).2

end Split

/-! ## The halving loop -/

/-- The loop keeps `d * 2^r` and stops at an odd d (R151, step 1). -/
theorem halveWhile_split {d : Word} (r : Nat) (hd : d ≠ 0#64) :
    d.toNat * 2 ^ r = (halveWhile d r).1.toNat * 2 ^ (halveWhile d r).2 ∧ (halveWhile d r).1.toNat % 2 = 1 := by
  induction hk : bitlen d generalizing d r with
  | zero => exact absurd (bitlen_eq_zero_iff.mp hk) hd
  | succ k ih =>
    cases hlow : lowBit d with
    | true =>
      rw [halveWhile_done r hd hlow]
      exact ⟨rfl, by rwa [lowBit_eq, decide_eq_true_eq] at hlow⟩
    | false =>
      have heven : d.toNat % 2 = 0 := by rw [lowBit_eq, decide_eq_false_iff_not] at hlow; omega
      have hkeep : d.toNat * 2 ^ r = (shr1 d).toNat * 2 ^ (r + 1) := by
        rw [shr1_toNat, pow_succ', ← mul_assoc, Nat.div_mul_cancel (Nat.dvd_of_mod_eq_zero heven)]
      rw [bitlen_shr1 hd] at hk
      rw [halveWhile_unroll r hd hlow, hkeep]
      exact ih (r + 1) (shr1_ne_zero hd hlow) (Nat.succ.inj hk)

theorem sub64_one_toNat {n : Word} (h : 1 ≤ n.toNat) : (sub64 n 1#64).toNat = n.toNat - 1 := sub64_toNat h

theorem sub64_two_toNat {n : Word} (h : 2 ≤ n.toNat) : (sub64 n 2#64).toNat = n.toNat - 2 := sub64_toNat h

/-- R153: the loop splits `n - 1` into an odd d and a power of two. -/
theorem halveWhile_sub64_one {n : Word} (hn : 2 ≤ n.toNat) :
    n.toNat - 1 = (halveWhile (sub64 n 1#64) 0).1.toNat * 2 ^ (halveWhile (sub64 n 1#64) 0).2 ∧
      (halveWhile (sub64 n 1#64) 0).1.toNat % 2 = 1 := by
  have hpred := sub64_one_toNat (n := n) (by omega)
  have hne : sub64 n 1#64 ≠ 0#64 := fun h0 => by rw [h0, BitVec.toNat_zero] at hpred; omega
  have hsplit := halveWhile_split 0 hne
  rwa [pow_zero, mul_one, hpred] at hsplit

end Sys2Proof.Machine

namespace Sys2Proof

open Machine

/-- Settles O41 (R153): the loop splits `n - 1`, and every such split is the same one and has these bounds. -/
theorem decompositionIsTheUniqueOne : Obligations.DecompositionIsTheUniqueOne := by
  intro n hn hodd
  obtain ⟨hx, hd⟩ := halveWhile_sub64_one (n := n) (by omega)
  have heven : (n.toNat - 1) % 2 = 0 := by omega
  have hlt : n.toNat - 1 < 2 ^ (63 + 1) := Nat.sub_lt_of_lt n.isLt
  refine ⟨sub64_one_toNat (by omega), sub64_two_toNat (by omega), hx, hd, exponent_pos_of_even hx hd heven,
    Nat.le_of_lt_succ (exponent_lt_of_lt_two_pow hx hd hlt), Nat.pos_of_ne_zero fun h0 => ?_,
    odd_factor_le_half hx hd heven, fun d r hx' hd' => odd_mul_two_pow_unique hx' hd' hx hd, ?_, fun hextreme => ?_⟩
  · rw [h0] at hd; exact absurd hd (by decide)
  · rw [exponent_eq_iff hx hd hlt]; omega
  · have hpow : n.toNat - 1 = 1 * 2 ^ 63 := by omega
    exact BitVec.eq_of_toNat_eq (odd_mul_two_pow_unique hx hd hpow rfl).1

end Sys2Proof

/-! PROOF of O43. Each part of R151 said of numbers, from the inside out: the squarings compute `x^(2^(j+1)) mod n`, a
base passes exactly when it is no witness, and the base loop gives 1 exactly when every eligible base passes, because
the table is increasing and so no base is eligible beyond the first one that is not. -/

namespace Sys2Proof.Machine

/-- A base that is no witness, by the first power of the sequence that says so. -/
theorem not_witnesses_iff (a d r n : Nat) :
    ¬witnesses a d r n ↔
      a ^ d % n = 1 ∨ a ^ d % n = n - 1 ∨ ∃ j < r - 1, a ^ (d * 2 ^ (j + 1)) % n = n - 1 := by
  have hshift : (∀ k, 1 ≤ k → k ≤ r - 1 → a ^ (d * 2 ^ k) % n ≠ n - 1) ↔
      ¬∃ j < r - 1, a ^ (d * 2 ^ (j + 1)) % n = n - 1 := by
    constructor
    · rintro h ⟨j, hj, hpow⟩
      exact h (j + 1) (Nat.succ_pos j) hj hpow
    · rintro h (_ | j) h1 hj hpow
      · exact absurd h1 (by decide)
      · exact h ⟨j, hj, hpow⟩
  rw [witnesses, hshift]
  simp only [not_and_or, ne_eq, not_not]

section Squarings

variable {n : Word} (hn : 1 < n.toNat)

include hn

theorem eq_sub64_one_iff {x : Word} : x = sub64 n 1#64 ↔ x.toNat = n.toNat - 1 := by
  rw [← BitVec.toNat_inj, sub64_one_toNat hn.le]

theorem MULM_self_toNat (x : Word) : (MULM x x n).toNat = x.toNat ^ 2 % n.toNat := by
  rw [MULM_toNat x x (modulus_ne_zero_of_lt (u := 1#64) (BitVec.lt_def.mpr hn)), pow_two]

/-- Squaring first is one more doubling of the exponent. -/
theorem MULM_self_pow_mod (x : Word) (j : Nat) :
    (MULM x x n).toNat ^ 2 ^ (j + 1) % n.toNat = x.toNat ^ 2 ^ (j + 1 + 1) % n.toNat := by
  rw [MULM_self_toNat hn, ← Nat.pow_mod, ← pow_mul, ← pow_succ']

/-- R156: the squarings reach n - 1 exactly when one of the powers they stand for is n - 1. -/
theorem reachesMinusOne_iff (k : Nat) (x : Word) :
    reachesMinusOne k x n = true ↔ ∃ j < k, x.toNat ^ 2 ^ (j + 1) % n.toNat = n.toNat - 1 := by
  induction k generalizing x with
  | zero => simp [reachesMinusOne]
  | succ k ih =>
    have hfirst : MULM x x n = sub64 n 1#64 ↔ x.toNat ^ 2 ^ (0 + 1) % n.toNat = n.toNat - 1 := by
      rw [eq_sub64_one_iff hn, MULM_self_toNat hn, zero_add, pow_one]
    simp only [reachesMinusOne, Bool.if_true_left, Bool.or_eq_true, decide_eq_true_eq, ih, MULM_self_pow_mod hn,
      hfirst, Nat.exists_lt_succ_left]

/-- R155, R156: a base passes exactly when it does not witness compositeness. -/
theorem basePasses_iff (a d : Word) (r : Nat) :
    basePasses a d r n = true ↔ ¬witnesses a.toNat d.toNat r n.toNat := by
  have hlt : 1#64 < n := BitVec.lt_def.mpr hn
  have hx : (POWM a d n).toNat = a.toNat ^ d.toNat % n.toNat := POWM_toNat a d (modulus_ne_zero_of_lt hlt) (.inr hlt)
  have hone : POWM a d n = 1#64 ↔ a.toNat ^ d.toNat % n.toNat = 1 := by rw [← BitVec.toNat_inj, hx]; rfl
  have hsquare : ∀ j, (a.toNat ^ d.toNat % n.toNat) ^ 2 ^ (j + 1) % n.toNat =
      a.toNat ^ (d.toNat * 2 ^ (j + 1)) % n.toNat := fun j => by rw [← Nat.pow_mod, ← pow_mul]
  rw [not_witnesses_iff]
  simp only [basePasses, Bool.if_true_left, Bool.or_eq_true, decide_eq_true_eq, or_assoc, reachesMinusOne_iff hn,
    hone, eq_sub64_one_iff hn, hx, hsquare]

end Squarings

/-! ## The base loop -/

/-- The early exit of R154 is taken at a base beyond n - 2. -/
theorem gt_sub64_two_iff {a n : Word} (hn : 2 ≤ n.toNat) : a > sub64 n 2#64 ↔ ¬a.toNat + 2 ≤ n.toNat := by
  rw [gt_iff_lt, BitVec.lt_def, sub64_two_toNat hn]
  omega

/-- R154: over an increasing list, the loop gives 1 exactly when every base up to n - 2 passes. -/
theorem baseLoop_iff {n : Word} (hn : 2 ≤ n.toNat) (d : Word) (r : Nat) {bases : List Word}
    (hsorted : bases.Pairwise (· < ·)) :
    baseLoop bases d r n = true ↔ ∀ a ∈ bases, a.toNat + 2 ≤ n.toNat → basePasses a d r n = true := by
  induction bases with
  | nil => simp [baseLoop]
  | cons a rest ih =>
    obtain ⟨hhead, hrest⟩ := List.pairwise_cons.mp hsorted
    rw [baseLoop, List.forall_mem_cons]
    by_cases helig : a.toNat + 2 ≤ n.toNat
    · rw [if_neg fun hgt => (gt_sub64_two_iff hn).mp hgt helig]
      cases hpass : basePasses a d r n <;> simp [helig, ih hrest]
    · have hlater : ∀ b ∈ rest, ¬b.toNat + 2 ≤ n.toNat := fun b hb => by
        have hlt := BitVec.lt_def.mp (hhead b hb)
        omega
      rw [if_pos ((gt_sub64_two_iff hn).mpr helig)]
      exact iff_of_true rfl ⟨fun h => absurd h helig, fun b hb h => absurd h (hlater b hb)⟩

theorem baseTable_increasing : Config.baseTable.toList.Pairwise (· < ·) := by decide

theorem forall_mem_baseTable_iff {p : Word → Prop} :
    (∀ a ∈ Config.baseTable.toList, p a) ↔ ∀ k : Fin 12, p (tableBase k) :=
  List.forall_mem_iff_get

/-- The base loop over the table, said of numbers. -/
theorem baseLoop_baseTable_iff {n : Word} (hn : 2 ≤ n.toNat) (d : Word) (r : Nat) :
    baseLoop Config.baseTable.toList d r n = true ↔
      ∀ k : Fin 12, eligible n k → ¬witnesses (tableBase k).toNat d.toNat r n.toNat := by
  rw [baseLoop_iff hn d r baseTable_increasing, forall_mem_baseTable_iff]
  simp only [basePasses_iff hn, eligible]

/-- R157 for the inputs that reach the base loop; their decomposition is the one `MRV` computes. -/
theorem MRV_iff_of_odd {n : Word} (hn : 5 ≤ n.toNat) (hodd : n.toNat % 2 = 1) :
    MRV n = true ↔ ∀ d r : Nat, n.toNat - 1 = d * 2 ^ r → d % 2 = 1 →
      ∀ k : Fin 12, eligible n k → ¬witnesses (tableBase k).toNat d r n.toNat := by
  obtain ⟨hx, hd⟩ := halveWhile_sub64_one (n := n) (by omega)
  rw [MRV_of_odd hn hodd, baseLoop_baseTable_iff (by omega)]
  constructor
  · intro hpass d r hx' hd'
    obtain ⟨rfl, rfl⟩ := odd_mul_two_pow_unique hx' hd' hx hd
    exact hpass
  · intro hall
    exact hall _ _ hx hd

end Sys2Proof.Machine

namespace Sys2Proof

open Machine

/-- Settles O43 (R157): on the trivial inputs by their class (R152), on the others by the base loop. -/
theorem verdictIsTheStrongTest : Obligations.VerdictIsTheStrongTest := by
  intro n
  by_cases hlt : n.toNat < 2
  · rw [MRV_of_lt_two hlt]
    exact iff_of_false Bool.false_ne_true (by omega)
  by_cases htwo : n.toNat = 2 ∨ n.toNat = 3
  · rw [MRV_of_two_or_three (htwo.imp BitVec.eq_of_toNat_eq BitVec.eq_of_toNat_eq)]
    exact iff_of_true rfl (htwo.imp_right .inl)
  by_cases hodd : n.toNat % 2 = 1
  · have hn : 5 ≤ n.toNat := by omega
    rw [MRV_iff_of_odd hn hodd]
    refine ⟨fun h => .inr (.inr ⟨hn, hodd, h⟩), fun h => ?_⟩
    obtain h | h | ⟨-, -, h⟩ := h
    · omega
    · omega
    · exact h
  · rw [MRV_of_even (by omega) (by omega)]
    exact iff_of_false Bool.false_ne_true (by omega)

end Sys2Proof

/-! PROOF of O19. A block step touches `BUSY` and `DONE` only, and a command in phase FAULTED does nothing, so an edge
without reset keeps all three fault bits of a block that has one. -/

namespace Sys2Proof.Machine

/-- The two statuses agree in every fault bit. -/
structure SameFaults (st st' : Status) : Prop where
  fMzero : st'.fMzero = st.fMzero
  fIllegal : st'.fIllegal = st.fIllegal
  fOverrun : st'.fOverrun = st.fOverrun

theorem SameFaults.of_eq {st st' : Status} (h : st' = st) : SameFaults st st' := h ▸ ⟨rfl, rfl, rfl⟩

theorem SameFaults.trans {a b c : Status} (hab : SameFaults a b) (hbc : SameFaults b c) : SameFaults a c :=
  ⟨hbc.fMzero.trans hab.fMzero, hbc.fIllegal.trans hab.fIllegal, hbc.fOverrun.trans hab.fOverrun⟩

theorem SameFaults.faultBits_eq {st st' : Status} (h : SameFaults st st') : faultBits st' = faultBits st := by
  unfold faultBits
  rw [h.fMzero, h.fIllegal, h.fOverrun]

theorem sameFaults_statusCompleted (st : Status) : SameFaults st (statusCompleted st) := ⟨rfl, rfl, rfl⟩

/-! ## The block's part of an edge -/

theorem sameFaults_blockStep (s : State) : SameFaults s.status (blockStep s).status := by
  rcases blockStep_status s with hkept | hcompleted
  · exact .of_eq hkept
  · rw [hcompleted]; exact sameFaults_statusCompleted _

theorem sameFaults_blockTurn (s : State) : SameFaults s.status (blockTurn s).status := by
  obtain ⟨k, ts, c, heq⟩ := blockTurn_eq_blockSteps s
  rw [heq]
  exact blockSteps_keeps (P := fun u => SameFaults s.status u.status)
    (fun u _ h => h.trans (sameFaults_blockStep u)) k _ (.of_eq rfl)

/-! ## The host's part of an edge -/

theorem commandOf_of_anyFault (i : Instr) {s : State} (h : anyFault s.status = true) : commandOf i s = s := if_pos h

theorem reservedCommand_of_anyFault {s : State} (h : anyFault s.status = true) : reservedCommand s = s := if_pos h

/-- In phase FAULTED the command step of any word does nothing (R75, R210). -/
theorem afterCommand_of_anyFault (w : Word) {s : State} (h : anyFault s.status = true) : afterCommand w s = s := by
  unfold afterCommand
  cases decodeWord w with
  | some i => exact commandOf_of_anyFault i h
  | none => exact reservedCommand_of_anyFault h

theorem afterHost_status_of_anyFault (p : PortsIn) {s : State} (h : anyFault s.status = true) :
    (afterHost p s).status = s.status := by
  unfold afterHost
  split_ifs
  · rw [afterCommand_of_anyFault _ h]
  · exact storeRegister_status ..
  · exact readToLog_status ..
  · rfl

theorem sameFaults_pollWait (rest : List HostStmt) (s : State) : SameFaults s.status (pollWait rest s).status := by
  unfold pollWait
  dsimp only
  split
  · exact sameFaults_blockTurn { s with script := rest, readLog := s.readLog ++ [readValue 4#3 s] }
  · exact sameFaults_blockTurn s

/-! ## A step -/

theorem afterStep_nil {s : State} (hscript : s.script = []) : afterStep s = blockTurn s := by
  unfold afterStep
  rw [hscript]

theorem afterStep_reset {s : State} {p : PortsIn} {rest : List HostStmt} (hscript : s.script = .edge p :: rest)
    (hp : p.rst = true) : afterStep s = resetEvent { s with script := rest } := by
  unfold afterStep
  rw [hscript]
  exact if_pos hp

/-- R211: from a state with a fault bit set, a step without reset keeps every fault bit as it is. -/
theorem sameFaults_afterStep {s : State} (hfault : anyFault s.status = true)
    (hrst : ∀ p rest, s.script = .edge p :: rest → p.rst = false) : SameFaults s.status (afterStep s).status := by
  rcases hscript : s.script with _ | ⟨p | _, rest⟩
  · rw [afterStep_nil hscript]
    exact sameFaults_blockTurn s
  · have hhost : (afterHost p { s with script := rest }).status = s.status := afterHost_status_of_anyFault p hfault
    rw [afterStep_edge hscript (hrst p rest hscript)]
    exact (SameFaults.of_eq hhost).trans (sameFaults_blockTurn _)
  · rw [afterStep_wait hscript]
    exact sameFaults_pollWait rest s

theorem anyFault_eq_true_iff (st : Status) :
    anyFault st = true ↔ st.fMzero = true ∨ st.fIllegal = true ∨ st.fOverrun = true := by
  simp [anyFault, or_assoc]

end Sys2Proof.Machine

namespace Sys2Proof

open Machine

/-- Settles O19 (R211): any fault bit set makes the step keep all three; the event `Reset` clears the whole status. -/
theorem faultBitsAreSticky : Obligations.FaultBitsAreSticky := by
  intro s t hst
  obtain rfl : afterStep s = t := Host.Outcome.next.inj ((step_eq s).symm.trans hst)
  refine ⟨fun hrst => ?_, fun p rest hscript hp => ?_⟩
  · have hsame (h : anyFault s.status = true) := sameFaults_afterStep h hrst
    have hany := (anyFault_eq_true_iff s.status).mpr
    exact ⟨fun h => (hsame (hany (.inl h))).fMzero.trans h, fun h => (hsame (hany (.inr (.inl h)))).fIllegal.trans h,
      fun h => (hsame (hany (.inr (.inr h)))).fOverrun.trans h, fun h => (hsame h).faultBits_eq⟩
  · rw [afterStep_reset hscript hp]
    rfl

end Sys2Proof

/-! PROOF of O44. Fermat gives `a^(n-1) = 1` modulo a prime n; since 1 has no square roots there but 1 and -1, going back
through the squarings from `a^(d * 2^r) = 1` meets -1, or `a^d` itself is 1. -/

namespace Sys2Proof.Machine

/-- Modulo a prime, what repeated squaring takes to 1 is 1 or passes through -1. -/
theorem eq_one_or_pow_two_pow_eq_neg_one {p r : Nat} [Fact p.Prime] {y : ZMod p} (h : y ^ 2 ^ r = 1) :
    y = 1 ∨ ∃ j < r, y ^ 2 ^ j = -1 := by
  induction r with
  | zero => exact .inl ((pow_one y).symm.trans h)
  | succ r ih =>
    rw [pow_succ, pow_mul, sq_eq_one_iff] at h
    rcases h with hone | hneg
    · exact (ih hone).imp_right fun ⟨j, hj, hpow⟩ => ⟨j, Nat.lt_succ_of_lt hj, hpow⟩
    · exact .inr ⟨r, Nat.lt_succ_self r, hneg⟩

section Residues

variable {n : Nat} (hn : 1 < n) (x : Nat)

include hn

theorem natCast_eq_one_iff_mod : (x : ZMod n) = 1 ↔ x % n = 1 := by
  rw [← Nat.cast_one, ZMod.natCast_eq_natCast_iff', Nat.mod_eq_of_lt hn]

theorem natCast_eq_neg_one_iff_mod : (x : ZMod n) = -1 ↔ x % n = n - 1 := by
  have hcast : ((n - 1 : Nat) : ZMod n) = -1 := by
    rw [Nat.cast_sub hn.le, ZMod.natCast_self, Nat.cast_one, zero_sub]
  rw [← hcast, ZMod.natCast_eq_natCast_iff', Nat.mod_eq_of_lt (Nat.sub_lt (Nat.zero_lt_of_lt hn) one_pos)]

end Residues

/-- No number below a prime n witnesses that n is composite. -/
theorem not_witnesses_of_prime {a d r n : Nat} (hn : n.Prime) (ha : 0 < a) (hlt : a < n) (hsplit : n - 1 = d * 2 ^ r) :
    ¬witnesses a d r n := by
  have : Fact n.Prime := ⟨hn⟩
  have hne : (a : ZMod n) ≠ 0 := fun h0 =>
    absurd (Nat.le_of_dvd ha ((ZMod.natCast_eq_zero_iff a n).mp h0)) (Nat.not_le.mpr hlt)
  have hfermat : ((a : ZMod n) ^ d) ^ 2 ^ r = 1 := by
    rw [← pow_mul, ← hsplit]
    exact ZMod.pow_card_sub_one_eq_one hne
  have hone := natCast_eq_one_iff_mod hn.one_lt (a ^ d)
  have hneg := fun k => natCast_eq_neg_one_iff_mod hn.one_lt (a ^ (d * 2 ^ k))
  simp only [Nat.cast_pow] at hone hneg
  rw [not_witnesses_iff]
  rcases eq_one_or_pow_two_pow_eq_neg_one hfermat with h1 | ⟨j, hj, hpow⟩
  · exact .inl (hone.mp h1)
  · rw [← pow_mul] at hpow
    have hmod := (hneg j).mp hpow
    rcases j with _ | j
    · exact .inr (.inl (by rwa [pow_zero, mul_one] at hmod))
    · exact .inr (.inr ⟨j, Nat.lt_sub_of_add_lt hj, hmod⟩)

theorem two_le_tableBase (k : Fin 12) : 2 ≤ (tableBase k).toNat := by
  revert k; decide

end Sys2Proof.Machine

namespace Sys2Proof

open Machine

/-- Settles O44 (R162): a prime is 2 or 3, or its eligible bases are below it and none is a witness (R157). -/
theorem primesGetVerdictOne : Obligations.PrimesGetVerdictOne := by
  intro n hn
  rw [verdictIsTheStrongTest n]
  have h2 := hn.two_le
  by_cases h3 : n.toNat ≤ 3
  · omega
  · have hodd : n.toNat % 2 = 1 := hn.eq_two_or_odd.resolve_left (by omega)
    refine .inr (.inr ⟨by omega, hodd, fun d r hsplit _ k helig => ?_⟩)
    unfold eligible at helig
    exact not_witnesses_of_prime hn (Nat.zero_lt_of_lt (two_le_tableBase k)) (by omega) hsplit

end Sys2Proof

/-! PROOF of O22. A level-B step either goes on, writing working registers and the sequencer's place only, or completes:
`RESULT`, `STATUS` and at most `MRE.*`. -/

namespace Sys2Proof.Machine

/-- What a level-B step from s leads to (R29, R35). -/
inductive StepOutcome (s : State) : State → Prop
  | goesOn (q : MulRegs) (p : PowRegs) (e : MreRegs) (l : Bool) :
    StepOutcome s { s with mul := q, pow := p, mre := e, loaded := l }
  | completes (v : Word) (e : MreRegs) : StepOutcome s (complete v { s with mre := e })

theorem blockModmul_outcome (s : State) : StepOutcome s (blockModmul s) := by
  unfold blockModmul
  split_ifs
  · exact .goesOn ..
  · exact .goesOn ..
  · exact .completes ..

theorem blockModpow_outcome (s : State) : StepOutcome s (blockModpow s) := by
  unfold blockModpow
  split_ifs
  · exact .goesOn ..
  · exact .goesOn ..
  · exact .completes ..

theorem mreClassify_outcome (s : State) : StepOutcome s (mreClassify s) := by
  unfold mreClassify
  split_ifs
  · exact .completes ..
  · exact .completes ..
  · exact .completes ..
  · exact .goesOn ..

theorem mreHalve_outcome (s : State) : StepOutcome s (mreHalve s) := by
  unfold mreHalve
  split_ifs
  · exact .goesOn ..
  · exact .goesOn ..

theorem mreBase_outcome (s : State) : StepOutcome s (mreBase s) := by
  unfold mreBase
  dsimp only
  split_ifs
  · exact .completes ..
  · exact .completes ..
  · exact .goesOn ..
  · exact .goesOn ..

theorem mreSquare_outcome (s : State) : StepOutcome s (mreSquare s) := by
  unfold mreSquare
  dsimp only
  split_ifs
  · exact .completes ..
  · exact .goesOn ..
  · exact .goesOn ..

theorem blockIsprime_outcome (s : State) : StepOutcome s (blockIsprime s) := by
  unfold blockIsprime
  split
  · exact .goesOn ..
  · cases s.mre.ph with
    | classify => exact mreClassify_outcome s
    | decomp => exact mreHalve_outcome s
    | base => exact mreBase_outcome s
    | square => exact mreSquare_outcome s
    | unnamed _ => exact .goesOn ..

theorem blockStep_outcome (s : State) : StepOutcome s (blockStep s) := by
  unfold blockStep
  cases decodeWord s.cmd with
  | none => exact .goesOn ..
  | some i =>
    cases i with
    | modadd => exact .completes ..
    | modsub => exact .completes ..
    | modmul => exact blockModmul_outcome s
    | modpow => exact blockModpow_outcome s
    | isprime => exact blockIsprime_outcome s

/-- What any number of level-B steps from s leads to. -/
inductive BlockFrame (s : State) : State → Prop
  | mk (busy done : Bool) (v : Word) (q : MulRegs) (p : PowRegs) (e : MreRegs) (l : Bool) :
    BlockFrame s
      { s with status := { s.status with busy, done }, result := v, mul := q, pow := p, mre := e, loaded := l }

theorem blockSteps_frame (k : Nat) (s : State) : BlockFrame s (blockSteps k s) := by
  refine blockSteps_keeps (P := BlockFrame s) (fun u _ h => ?_) k s (.mk ..)
  have hstep := blockStep_outcome u
  generalize blockStep u = u' at hstep ⊢
  obtain ⟨⟩ := h
  cases hstep with
  | goesOn => exact .mk ..
  | completes => exact .mk ..

/-- A block still running has written neither `RESULT` nor `STATUS` (R22). -/
theorem blockSteps_of_busy {k : Nat} {s : State} (h : (blockSteps k s).status.busy = true) :
    (blockSteps k s).result = s.result ∧ (blockSteps k s).status = s.status := by
  refine blockSteps_keeps (P := fun u => u.status.busy = true → u.result = s.result ∧ u.status = s.status)
    (fun u hbusy hkept => ?_) k s (fun _ => ⟨rfl, rfl⟩) h
  have hstep := blockStep_outcome u
  generalize blockStep u = u' at hstep ⊢
  cases hstep with
  | goesOn => exact hkept
  | completes => exact fun h => Bool.noConfusion h

end Sys2Proof.Machine

namespace Sys2Proof

open Machine

/-- Settles O22 (R22, R29, R30): each level-B step goes on or completes, and neither touches anything else. -/
theorem blockStepsLeaveTheHostSideAlone : Obligations.BlockStepsLeaveTheHostSideAlone := by
  refine ⟨fun _ _ => blockSteps_of_busy, fun k s => ?_⟩
  have hframe := blockSteps_frame k s
  generalize blockSteps k s = u at hframe ⊢
  cases hframe
  rfl

end Sys2Proof

/-! PROOF of O23. A level-B step reads nothing of the operand registers, so it commutes with a write to them, and so does
taking a turn of the schedule. -/

namespace Sys2Proof.Machine

theorem blockSteps_graft (k : Nat) {s u : State} (hcmd : u.cmd = s.cmd) :
    blockSteps k (s.graft u) = (blockSteps k s).graft u := by
  induction k generalizing s with
  | zero => rfl
  | succ k ih =>
    have hbusy : (s.graft u).status.busy = s.status.busy := rfl
    rw [blockSteps, blockSteps, hbusy, apply_ite (State.graft · u), blockStep_graft hcmd,
      ih (hcmd.trans (blockStep_cmd s).symm)]

section OperandWrite

variable (i : RegIndex) (v : Word)

theorem storeRegister_eq_graft (s : State) : storeRegister i v s = s.graft (storeRegister i v s) := by
  unfold storeRegister
  split <;> rfl

theorem graft_storeRegister (f s : State) : f.graft (storeRegister i v s) = storeRegister i v (f.graft s) := by
  unfold storeRegister
  split <;> rfl

theorem storeRegister_schedule (s : State) (ts : List Turn) (c : Nat) :
    storeRegister i v { s with turns := ts, turnCount := c } =
      { storeRegister i v s with turns := ts, turnCount := c } := by
  unfold storeRegister
  split <;> rfl

theorem blockSteps_storeRegister (k : Nat) (s : State) :
    blockSteps k (storeRegister i v s) = storeRegister i v (blockSteps k s) := by
  calc blockSteps k (storeRegister i v s)
      = blockSteps k (s.graft (storeRegister i v s)) := by rw [← storeRegister_eq_graft]
    _ = (blockSteps k s).graft (storeRegister i v s) := blockSteps_graft k (storeRegister_cmd ..)
    _ = storeRegister i v ((blockSteps k s).graft s) := graft_storeRegister ..
    _ = storeRegister i v (blockSteps k (s.graft s)) := by rw [← blockSteps_graft k rfl]

theorem takeTurn_storeRegister (s : State) :
    takeTurn (storeRegister i v s) = ((takeTurn s).1, storeRegister i v (takeTurn s).2) := by
  unfold takeTurn
  rw [storeRegister_turns, storeRegister_turnCount]
  rcases s.turns with _ | ⟨t, rest⟩
  · exact congrArg (Prod.mk _) (storeRegister_schedule i v s [] _).symm
  · exact congrArg (Prod.mk _) (storeRegister_schedule i v s rest _).symm

theorem blockTurn_storeRegister (s : State) :
    blockTurn (storeRegister i v s) = storeRegister i v (blockTurn s) := by
  unfold blockTurn
  rw [storeRegister_status, takeTurn_storeRegister]
  dsimp only
  rw [blockSteps_storeRegister, storeRegister_turns, storeRegister_turnCount,
    apply_ite (storeRegister i v), apply_ite (storeRegister i v)]
  exact if_congr .rfl (if_congr .rfl rfl (storeRegister_schedule i v _ _ _).symm) rfl

end OperandWrite

end Sys2Proof.Machine

namespace Sys2Proof

open Machine

/-- Settles O23 (R21, R252): a write to an operand register commutes with the block's part of an edge; acceptance
latches what was written (R30). -/
theorem operandWritesDoNotDisturb : Obligations.OperandWritesDoNotDisturb :=
  fun i v s _ => ⟨fun k => blockSteps_storeRegister i v k s, blockTurn_storeRegister i v s, fun _ => ⟨rfl, rfl, rfl⟩⟩

end Sys2Proof

/-! PROOF of O29. A step of the engine from registers that meet R153, R154, R156 and R160 either finishes with the
verdict they owe, or goes on to such registers that owe the same verdict and have fewer steps left. -/

namespace Sys2Proof.Machine

/-! ## The base table -/

theorem tableBase_strictMono : ∀ {j k : Fin 12}, j < k → (tableBase j).toNat < (tableBase k).toNat := by decide

theorem baseAt_eq_tableBase {i : BitVec 4} (hi : i.toNat < 12) : baseAt i = tableBase ⟨i.toNat, hi⟩ := dif_pos hi

/-- R154: the early exit is taken exactly at a base that is not eligible. -/
theorem baseAt_gt_iff {i : BitVec 4} {n : Word} (hi : i.toNat < 12) (hn : 2 ≤ n.toNat) :
    baseAt i > sub64 n 2#64 ↔ ¬eligible n ⟨i.toNat, hi⟩ := by
  rw [gt_sub64_two_iff hn, baseAt_eq_tableBase hi]
  rfl

/-- No base is eligible beyond one that is not. -/
theorem eligible_of_le {n : Word} {j k : Fin 12} (hjk : j ≤ k) (hk : eligible n k) : eligible n j := by
  unfold eligible at hk ⊢
  rcases hjk.eq_or_lt with rfl | hlt
  · exact hk
  · have := tableBase_strictMono hlt
    omega

theorem basesEligible_succ {e : MreRegs} {k : Nat} {hk : k < 12} (h : eligible e.n ⟨k, hk⟩) :
    basesEligible e (k + 1) :=
  fun _ hb => eligible_of_le (Nat.le_of_lt_succ hb) h

/-! ## The per-base states -/

/-- The next entry becomes `PROBABLE_PRIME` (R160). -/
theorem bstProgress_succ {e e' : MreRegs} {k : Nat} (h : bstProgress e k)
    (hbst : e'.bst = e.bst.setIfInBounds k .probablePrime) : bstProgress e' (k + 1) := by
  intro b
  have hb := h b
  rw [Fin.getElem_fin] at hb ⊢
  simp only [hbst, Vector.getElem_setIfInBounds, hb]
  rcases lt_trichotomy k b.val with hlt | heq | hgt
  · rw [if_neg hlt.ne, if_neg hlt.asymm, if_neg (by omega)]
  · rw [if_pos heq, if_pos (by omega)]
  · rw [if_neg hgt.ne', if_pos hgt, if_pos (by omega)]

/-- What `MRE.BST` records when the bases from k on are not eligible. -/
theorem bstRecords_true {e : MreRegs} {k : Nat} (hsplit : mreSplit e) (hbst : bstProgress e k)
    (helig : basesEligible e k) (hrest : ∀ b : Fin 12, k ≤ b.val → ¬eligible e.n b) : bstRecords e true := by
  obtain ⟨hn, hodd, -⟩ := hsplit
  rw [bstRecords, if_neg (by omega)]
  exact ⟨k, hbst, fun b => ⟨helig b, fun hb => Nat.lt_of_not_le fun hle => hrest b hle hb⟩⟩

/-- What `MRE.BST` records when base k is found a witness. -/
theorem bstRecords_false {e e' : MreRegs} {k : Nat} {hk : k < 12} (hsplit : mreSplit e) (hbst : bstProgress e k)
    (helig : eligible e.n ⟨k, hk⟩) (hn' : e'.n = e.n) (hbst' : e'.bst = e.bst.setIfInBounds k .composite) :
    bstRecords e' false := by
  obtain ⟨hn, hodd, -⟩ := hsplit
  have hentry : ∀ b : Fin 12, e'.bst[b] = if k = b.val then .composite else e.bst[b] := fun b => by
    simp only [Fin.getElem_fin, hbst', Vector.getElem_setIfInBounds]
  rw [bstRecords, hn', if_neg (by omega)]
  refine ⟨⟨k, hk⟩, helig, by rw [hentry, if_pos rfl], fun b hb => ?_, fun b hb => ?_⟩
  · have hlt : b.val < k := hb
    rw [hentry, if_neg hlt.ne', hbst b, if_pos hlt]
  · have hgt : k < b.val := hb
    rw [hentry, if_neg hgt.ne, hbst b, if_neg hgt.asymm]

/-! ## The engine's steps -/

/-- A bound on the level-B steps the engine still needs (R164). -/
def mreStepsLeft (e : MreRegs) : Nat :=
  match e.ph with
  | .classify => 13 * (halveWhile (sub64 e.n 1#64) 0).2 + 3
  | .decomp => 13 * (halveWhile e.d e.r.toNat).2 - e.r.toNat + 2
  | .base => (12 - e.i.toNat) * e.r.toNat + 1
  | .square => e.j.toNat + 1 + (11 - e.i.toNat) * e.r.toNat
  | .unnamed _ => 0

section Phases

variable {e : MreRegs}

theorem mreReady_classify (h : e.ph = .classify) : mreReady e ↔ bstProgress e 0 := by
  simp only [mreReady, h]

theorem mreReady_decomp (h : e.ph = .decomp) : mreReady e ↔ bstProgress e 0 ∧ mreSplit e := by
  simp only [mreReady, h]

theorem mreReady_base (h : e.ph = .base) : mreReady e ↔
    bstProgress e e.i.toNat ∧ mreSplit e ∧ e.d.toNat % 2 = 1 ∧ 1 ≤ e.r.toNat ∧ e.i.toNat ≤ 12 ∧
      basesEligible e e.i.toNat := by
  simp only [mreReady, h]

theorem mreReady_square (h : e.ph = .square) : mreReady e ↔
    bstProgress e e.i.toNat ∧ mreSplit e ∧ e.d.toNat % 2 = 1 ∧ e.j.toNat < e.r.toNat ∧ e.i.toNat < 12 ∧
      basesEligible e (e.i.toNat + 1) := by
  simp only [mreReady, h]

theorem mreVerdict_classify (h : e.ph = .classify) : mreVerdict e = MRV e.n := by
  simp only [mreVerdict, h]

theorem mreVerdict_decomp (h : e.ph = .decomp) : mreVerdict e =
    baseLoop Config.baseTable.toList (halveWhile e.d e.r.toNat).1 (halveWhile e.d e.r.toNat).2 e.n := by
  simp only [mreVerdict, h]

theorem mreVerdict_base (h : e.ph = .base) : mreVerdict e =
    baseLoop (Config.baseTable.toList.drop e.i.toNat) e.d e.r.toNat e.n := by
  simp only [mreVerdict, h]

theorem mreVerdict_square (h : e.ph = .square) : mreVerdict e =
    if reachesMinusOne e.j.toNat e.x e.n then
      baseLoop (Config.baseTable.toList.drop (e.i.toNat + 1)) e.d e.r.toNat e.n
    else false := by
  simp only [mreVerdict, h]

theorem mreStepsLeft_classify (h : e.ph = .classify) :
    mreStepsLeft e = 13 * (halveWhile (sub64 e.n 1#64) 0).2 + 3 := by
  simp only [mreStepsLeft, h]

theorem mreStepsLeft_decomp (h : e.ph = .decomp) :
    mreStepsLeft e = 13 * (halveWhile e.d e.r.toNat).2 - e.r.toNat + 2 := by
  simp only [mreStepsLeft, h]

theorem mreStepsLeft_base (h : e.ph = .base) : mreStepsLeft e = (12 - e.i.toNat) * e.r.toNat + 1 := by
  simp only [mreStepsLeft, h]

theorem mreStepsLeft_square (h : e.ph = .square) :
    mreStepsLeft e = e.j.toNat + 1 + (11 - e.i.toNat) * e.r.toNat := by
  simp only [mreStepsLeft, h]

end Phases

/-- Registers e' follow e within the engine's work: the same input, the same verdict owed, fewer steps left. -/
structure Progress (e e' : MreRegs) : Prop where
  n_eq : e'.n = e.n
  ready : mreReady e'
  verdict : mreVerdict e' = mreVerdict e
  fewer : mreStepsLeft e' < mreStepsLeft e

/-- What a step of the loaded engine leads to: more work, or `Finish` with the verdict its registers owe (R158, R159). -/
inductive EngineStep (s : State) : State → Prop
  | goesOn {q : MulRegs} {p : PowRegs} {e : MreRegs} (h : Progress s.mre e) :
    EngineStep s { s with mul := q, pow := p, mre := e }
  | finishes {v : Bool} {e : MreRegs} (hv : mreVerdict s.mre = v) (hn : e.n = s.mre.n) (hbst : bstRecords e v) :
    EngineStep s (finish v { s with mre := e })

theorem mreClassify_of_odd {s : State} (hn : 5 ≤ s.mre.n.toNat) (hodd : s.mre.n.toNat % 2 = 1) :
    mreClassify s = { s with mre := { s.mre with d := sub64 s.mre.n 1#64, r := 0#6, ph := .decomp } } := by
  have hge : ¬s.mre.n < 2#64 := by bv_omega
  have hne : ¬(s.mre.n = 2#64 ∨ s.mre.n = 3#64) := by bv_omega
  have hlow : lowBit s.mre.n = true := by rwa [lowBit_eq, decide_eq_true_eq]
  rw [mreClassify, if_neg hge, if_neg hne, hlow]
  rfl

theorem mreClassify_step {s : State} (hph : s.mre.ph = .classify) (hready : mreReady s.mre) :
    EngineStep s (mreClassify s) := by
  have hbst := (mreReady_classify hph).mp hready
  have hverdict := mreVerdict_classify hph
  by_cases htrivial : s.mre.n.toNat < 5 ∨ s.mre.n.toNat % 2 = 0
  · rw [mreClassify_of_trivial htrivial]
    exact .finishes (e := s.mre) hverdict rfl (by rwa [bstRecords, if_pos htrivial])
  · have hn : 5 ≤ s.mre.n.toNat := by omega
    have hodd : s.mre.n.toNat % 2 = 1 := by omega
    have hpred : (sub64 s.mre.n 1#64).toNat * 2 ^ 0 + 1 = s.mre.n.toNat := by
      rw [sub64_one_toNat (by omega)]; omega
    rw [mreClassify_of_odd hn hodd]
    refine .goesOn (q := s.mul) (p := s.pow)
      ⟨rfl, (mreReady_decomp rfl).mpr ⟨hbst, hn, hodd, hpred⟩, ?_, ?_⟩
    · rw [hverdict, MRV_of_odd hn hodd]
      exact mreVerdict_decomp rfl
    · rw [mreStepsLeft_classify hph, mreStepsLeft_decomp rfl]
      exact Nat.lt_succ_self _

theorem le_halveWhile_snd {d : Word} (r : Nat) (hd : d ≠ 0#64) : r ≤ (halveWhile d r).2 := by
  obtain ⟨hkeep, hodd⟩ := halveWhile_split r hd
  exact exponent_le_of_odd rfl hkeep hodd

theorem mreHalve_step {s : State} (hph : s.mre.ph = .decomp) (hready : mreReady s.mre) :
    EngineStep s (mreHalve s) := by
  obtain ⟨hbst, hn, hodd, hsplit⟩ := (mreReady_decomp hph).mp hready
  have hverdict := mreVerdict_decomp hph
  have hleft := mreStepsLeft_decomp hph
  have hd : s.mre.d ≠ 0#64 := fun h0 => by rw [h0, BitVec.toNat_zero, Nat.zero_mul] at hsplit; omega
  unfold mreHalve
  cases hlow : lowBit s.mre.d with
  | true =>
    have hdodd : s.mre.d.toNat % 2 = 1 := by rwa [lowBit_eq, decide_eq_true_eq] at hlow
    have hr : 1 ≤ s.mre.r.toNat := exponent_pos_of_even rfl hdodd (by omega)
    rw [halveWhile_done _ hd hlow] at hverdict hleft
    refine .goesOn (q := s.mul) (p := s.pow) ⟨rfl, (mreReady_base rfl).mpr ⟨hbst, ⟨hn, hodd, hsplit⟩, hdodd, hr,
      Nat.zero_le _, fun b hb => absurd hb (Nat.not_lt_zero _)⟩, hverdict ▸ mreVerdict_base rfl, ?_⟩
    rw [hleft, mreStepsLeft_base rfl]
    show (12 - 0) * s.mre.r.toNat + 1 < _
    omega
  | false =>
    have heven : s.mre.d.toNat % 2 = 0 := by rw [lowBit_eq, decide_eq_false_iff_not] at hlow; omega
    have hpos := toNat_pos_of_ne_zero hd
    have hr : (s.mre.r + 1#6).toNat = s.mre.r.toNat + 1 :=
      BitVec.toNat_add_of_lt (add_one_lt_of_mul_two_pow_lt (d := s.mre.d.toNat) (by omega) (by omega))
    have hsplit' : (shr1 s.mre.d).toNat * 2 ^ (s.mre.r + 1#6).toNat + 1 = s.mre.n.toNat := by
      rw [hr, shr1_toNat, pow_succ', ← mul_assoc, Nat.div_mul_cancel (Nat.dvd_of_mod_eq_zero heven), hsplit]
    have hle := le_halveWhile_snd (s.mre.r + 1#6).toNat (shr1_ne_zero hd hlow)
    rw [halveWhile_unroll _ hd hlow, ← hr] at hverdict hleft
    refine .goesOn (q := s.mul) (p := s.pow) ⟨rfl, (mreReady_decomp (by exact hph)).mpr ⟨hbst, hn, hodd, hsplit'⟩,
      hverdict ▸ mreVerdict_decomp (by exact hph), ?_⟩
    rw [hleft]
    refine (mreStepsLeft_decomp (by exact hph)).trans_lt ?_
    show 13 * (halveWhile (shr1 s.mre.d) (s.mre.r + 1#6).toNat).2 - (s.mre.r + 1#6).toNat + 2 < _
    omega

/-- Base `MRE.I` has passed, and the engine goes on with the next one. -/
theorem progress_nextBase {e e' : MreRegs} (hready : bstProgress e e.i.toNat ∧ mreSplit e ∧ e.d.toNat % 2 = 1)
    (hr : 1 ≤ e.r.toNat) (hi : e.i.toNat < 12) (helig : basesEligible e (e.i.toNat + 1))
    (hverdict : mreVerdict e = baseLoop (Config.baseTable.toList.drop (e.i.toNat + 1)) e.d e.r.toNat e.n)
    (hleft : (11 - e.i.toNat) * e.r.toNat + 1 < mreStepsLeft e) (hph : e'.ph = .base)
    (hsame : e'.n = e.n ∧ e'.d = e.d ∧ e'.r = e.r) (hi' : e'.i = e.i + 1#4)
    (hbst' : e'.bst = e.bst.setIfInBounds e.i.toNat .probablePrime) : Progress e e' := by
  obtain ⟨hbst, hsplit, hdodd⟩ := hready
  obtain ⟨hn, hd, hr'⟩ := hsame
  have hnext : e'.i.toNat = e.i.toNat + 1 := by bv_omega
  refine ⟨hn, (mreReady_base hph).mpr ?_, ?_, ?_⟩
  · rw [hnext, mreSplit, basesEligible, hn, hd, hr']
    exact ⟨bstProgress_succ hbst hbst', hsplit, hdodd, hr, hi, helig⟩
  · rw [mreVerdict_base hph, hnext, hn, hd, hr', hverdict]
  · rw [mreStepsLeft_base hph, hnext, hr', Nat.succ_sub_succ]
    exact hleft

theorem mreBase_step {s : State} (hph : s.mre.ph = .base) (hready : mreReady s.mre) :
    EngineStep s (mreBase s) := by
  obtain ⟨hbst, hsplit, hdodd, hr, hi, helig⟩ := (mreReady_base hph).mp hready
  have hverdict := mreVerdict_base hph
  rw [mreBase]
  by_cases hi12 : s.mre.i = 12#4
  · rw [if_pos hi12]
    refine .finishes (e := s.mre) (by rw [hverdict, hi12]; rfl) rfl (bstRecords_true hsplit hbst helig fun b hb => ?_)
    rw [hi12] at hb
    exact absurd b.isLt (Nat.not_lt.mpr hb)
  have hlt : s.mre.i.toNat < 12 := by bv_omega
  have hlast := baseAt_gt_iff (n := s.mre.n) hlt (by have := hsplit.1; omega)
  rw [if_neg hi12]
  rw [drop_baseTable hlt, baseLoop] at hverdict
  by_cases hgt : baseAt s.mre.i > sub64 s.mre.n 2#64
  · rw [if_pos hgt] at hverdict ⊢
    refine .finishes (e := s.mre) hverdict rfl (bstRecords_true hsplit hbst helig fun b hb heb => ?_)
    exact hlast.mp hgt (eligible_of_le (j := ⟨s.mre.i.toNat, hlt⟩) hb heb)
  have hnext : basesEligible s.mre (s.mre.i.toNat + 1) := basesEligible_succ (not_not.mp (hlast.not.mp hgt))
  have hleft : mreStepsLeft s.mre = (11 - s.mre.i.toNat) * s.mre.r.toNat + s.mre.r.toNat + 1 := by
    rw [mreStepsLeft_base hph, ← Nat.succ_mul]
    congr 2
    omega
  rw [if_neg hgt] at hverdict ⊢
  rw [basePasses] at hverdict
  dsimp only at hverdict ⊢
  by_cases hpass : POWM (baseAt s.mre.i) s.mre.d s.mre.n = 1#64 ∨
      POWM (baseAt s.mre.i) s.mre.d s.mre.n = sub64 s.mre.n 1#64
  · rw [if_pos hpass, if_pos rfl] at hverdict
    rw [if_pos hpass]
    exact .goesOn (progress_nextBase ⟨hbst, hsplit, hdodd⟩ hr hlt hnext hverdict (by omega) hph ⟨rfl, rfl, rfl⟩
      rfl rfl)
  · have hj : (s.mre.r - 1#6).toNat = s.mre.r.toNat - 1 := by bv_omega
    rw [if_neg hpass, ← hj] at hverdict
    rw [if_neg hpass]
    refine .goesOn ⟨rfl, (mreReady_square rfl).mpr ⟨hbst, hsplit, hdodd, ?_, hlt, hnext⟩,
      hverdict ▸ mreVerdict_square rfl, ?_⟩
    · show (s.mre.r - 1#6).toNat < s.mre.r.toNat
      omega
    · rw [hleft, mreStepsLeft_square rfl]
      show (s.mre.r - 1#6).toNat + 1 + (11 - s.mre.i.toNat) * s.mre.r.toNat < _
      omega

theorem mreSquare_step {s : State} (hph : s.mre.ph = .square) (hready : mreReady s.mre) :
    EngineStep s (mreSquare s) := by
  obtain ⟨hbst, hsplit, hdodd, hj, hi, helig⟩ := (mreReady_square hph).mp hready
  have hverdict := mreVerdict_square hph
  have hleft := mreStepsLeft_square hph
  rw [mreSquare]
  by_cases hj0 : s.mre.j = 0#6
  · rw [if_pos hj0]
    refine .finishes (by rw [hverdict, hj0]; rfl) rfl
      (bstRecords_false hsplit hbst (helig ⟨s.mre.i.toNat, hi⟩ (Nat.lt_succ_self _)) rfl rfl)
  have hj' : s.mre.j.toNat = (s.mre.j - 1#6).toNat + 1 := by bv_omega
  rw [if_neg hj0]
  rw [hj', reachesMinusOne] at hverdict
  dsimp only at hverdict ⊢
  by_cases hx : MULM s.mre.x s.mre.x s.mre.n = sub64 s.mre.n 1#64
  · rw [if_pos hx, if_pos rfl] at hverdict
    rw [if_pos hx]
    exact .goesOn (progress_nextBase ⟨hbst, hsplit, hdodd⟩ (Nat.zero_lt_of_lt hj) hi helig hverdict (by omega) rfl
      ⟨rfl, rfl, rfl⟩ rfl rfl)
  · rw [if_neg hx] at hverdict ⊢
    refine .goesOn ⟨rfl, (mreReady_square (by exact hph)).mpr ⟨hbst, hsplit, hdodd, ?_, hi, helig⟩,
      hverdict ▸ mreVerdict_square (by exact hph), ?_⟩
    · show (s.mre.j - 1#6).toNat < s.mre.r.toNat
      omega
    · rw [hleft]
      refine (mreStepsLeft_square (by exact hph)).trans_lt ?_
      show (s.mre.j - 1#6).toNat + 1 + (11 - s.mre.i.toNat) * s.mre.r.toNat < _
      omega

/-- Every step of the loaded engine, whatever its phase. -/
theorem blockIsprime_step {s : State} (hload : s.loaded = true) (hready : mreReady s.mre) :
    EngineStep s (blockIsprime s) := by
  unfold blockIsprime
  rw [hload]
  cases hph : s.mre.ph with
  | classify => exact mreClassify_step hph hready
  | decomp => exact mreHalve_step hph hready
  | base => exact mreBase_step hph hready
  | square => exact mreSquare_step hph hready
  | unnamed k => simp only [mreReady, hph] at hready

/-! ## Counting the level-B steps -/

/-- The block stays busy for n level-B steps, and then stands still in a state with P. -/
inductive CompletesIn (P : State → Prop) : Nat → State → Prop
  | completed {s : State} (hidle : s.status.busy = false) (hP : P s) : CompletesIn P 0 s
  | running {n : Nat} {s : State} (hbusy : s.status.busy = true) (hnext : CompletesIn P n (blockStep s)) :
    CompletesIn P (n + 1) s

theorem blockSteps_succ {s : State} (hbusy : s.status.busy = true) (k : Nat) :
    blockSteps (k + 1) s = blockSteps k (blockStep s) := if_pos hbusy

section Count

variable {P : State → Prop} {n : Nat} {s : State}

theorem CompletesIn.busy_before (h : CompletesIn P n s) : ∀ k < n, (blockSteps k s).status.busy = true := by
  induction h with
  | completed => exact fun _ hk => absurd hk (Nat.not_lt_zero _)
  | running hbusy _ ih =>
    rintro (_ | k) hk
    · exact hbusy
    · rw [blockSteps_succ hbusy]
      exact ih k (Nat.lt_of_succ_lt_succ hk)

theorem CompletesIn.at_end (h : CompletesIn P n s) :
    (blockSteps n s).status.busy = false ∧ P (blockSteps n s) := by
  induction h with
  | completed hidle hP => exact ⟨hidle, hP⟩
  | running hbusy _ ih => rwa [blockSteps_succ hbusy]

theorem completesIn_complete {v : Word} (hP : P (complete v s)) : CompletesIn P 0 (complete v s) :=
  .completed rfl hP

end Count

/-! ## ISPRIME -/

/-- `Finish` with this verdict (R158). -/
def FinishedWith (v : Bool) (t : State) : Prop := t.status.done = true ∧ t.result = verdictWord v

section Isprime

variable {s : State} (hbusy : s.status.busy = true) (hcmd : decodeWord s.cmd = some .isprime)

include hbusy hcmd

theorem completesIn_of_blockIsprime {P : State → Prop} {k : Nat} (h : CompletesIn P k (blockIsprime s)) :
    CompletesIn P (k + 1) s :=
  .running hbusy (by rwa [blockStep, hcmd])

theorem completesIn_of_mreReady (hload : s.loaded = true) (hready : mreReady s.mre) :
    ∃ k ≤ mreStepsLeft s.mre + 1, CompletesIn (FinishedWith (mreVerdict s.mre)) k s := by
  induction hm : mreStepsLeft s.mre using Nat.strong_induction_on generalizing s with
  | _ m ih =>
    have hstep := blockIsprime_step hload hready
    have hcompletes {P : State → Prop} {k : Nat} := completesIn_of_blockIsprime (P := P) (k := k) hbusy hcmd
    generalize blockIsprime s = s' at hstep hcompletes
    cases hstep with
    | @goesOn q p e h =>
      obtain ⟨k, hk, hend⟩ := ih (mreStepsLeft e) (hm ▸ h.fewer) (s := { s with mul := q, pow := p, mre := e })
        hbusy hcmd hload h.ready rfl
      have hfewer := h.fewer
      exact ⟨k + 1, by omega, hcompletes (h.verdict ▸ hend)⟩
    | finishes hv => exact ⟨1, Nat.le_add_left .., hcompletes (completesIn_complete ⟨rfl, hv ▸ rfl⟩)⟩

theorem completesIn_of_mreLoad {P : State → Prop} {k : Nat} (hload : s.loaded = false)
    (h : CompletesIn P k (mreLoad s)) : CompletesIn P (k + 1) s :=
  completesIn_of_blockIsprime hbusy hcmd (by rwa [blockIsprime, hload])

/-- R164: a trivial input is decided by `MRE.Classify`, the step after the load. -/
theorem completesIn_of_trivial (hload : s.loaded = false) (h : s.lm.toNat < 5 ∨ s.lm.toNat % 2 = 0) :
    CompletesIn (FinishedWith (MRV s.lm)) 2 s := by
  refine completesIn_of_mreLoad hbusy hcmd hload ?_
  refine completesIn_of_blockIsprime (s := mreLoad s) hbusy hcmd ?_
  have hclassify : blockIsprime (mreLoad s) = mreClassify (mreLoad s) := rfl
  rw [hclassify, mreClassify_of_trivial (s := mreLoad s) h]
  exact completesIn_complete ⟨rfl, rfl⟩

end Isprime

theorem mreReady_mreLoad (s : State) : mreReady (mreLoad s).mre :=
  (mreReady_classify rfl).mpr fun _ => Vector.getElem_replicate _

end Sys2Proof.Machine

namespace Sys2Proof

open Machine

/-- Settles O29 (R159, R164): a trivial input takes the load and the classification; for any other, r + 1 steps halve
`n - 1` and each of the twelve bases takes at most r. -/
theorem isprimeReachesItsVerdict : Obligations.IsprimeReachesItsVerdict := by
  intro s hbusy hcmd hload
  have hdecode : decodeWord s.cmd = some .isprime := hcmd ▸ rfl
  refine ⟨fun htrivial => (completesIn_of_trivial hbusy hdecode hload htrivial).at_end, fun hn hodd => ⟨?_, ?_⟩⟩
  · obtain ⟨-, -, -, -, -, hr, -⟩ := decompositionIsTheUniqueOne s.lm hn hodd
    omega
  · obtain ⟨k, hk, hend⟩ := completesIn_of_mreReady (s := mreLoad s) hbusy hdecode rfl (mreReady_mreLoad s)
    have hbound : k ≤ 13 * (halveWhile (sub64 s.lm 1#64) 0).2 + 4 := hk
    exact ⟨k + 1, by omega, (completesIn_of_mreLoad hbusy hdecode hload hend).at_end⟩

end Sys2Proof

/-! PROOF of O46. A level-B step of a unit whose registers fit its operands leaves the value owed as it was, or completes
with it. The host reaches none of these registers but by a reset or a write to `CMD`. -/

namespace Sys2Proof.Machine

/-! ## The block's part of an edge -/

/-- Before its load step a command owes its function value of the latches. -/
theorem valueOwed_of_not_loaded (i : Instr) {s : State} (h : s.loaded = false) :
    valueOwed i s = commandValue i s.la s.lb s.lm := by
  cases i <;> simp [valueOwed, commandValue, h]

theorem valueOwed_modmul {s : State} (h : s.loaded = true) :
    valueOwed .modmul s = mulWhile s.mul.a s.mul.b s.mul.r s.mul.m := if_pos h

theorem valueOwed_modpow {s : State} (h : s.loaded = true) :
    valueOwed .modpow s = powWhile s.pow.a s.pow.b s.pow.r s.pow.m := if_pos h

theorem valueOwed_isprime {s : State} (h : s.loaded = true) :
    valueOwed .isprime s = verdictWord (mreVerdict s.mre) := congrArg verdictWord (if_pos h)

/-- What a level-B step of command i leads to: registers that fit it and owe the same value, or completion with that
value and, for `ISPRIME`, the record of its verdict. -/
inductive OwedStep (i : Instr) (s : State) : State → Prop
  | goesOn {u : State} (hlatches : u.la = s.la ∧ u.lb = s.lb ∧ u.lm = s.lm) (hcmd : u.cmd = s.cmd)
    (hstatus : u.status = s.status) (hready : unitsReady i u) (howed : valueOwed i u = valueOwed i s) : OwedStep i s u
  | completes {v : Word} {e : MreRegs} (hv : valueOwed i s = v)
    (hbst : i = .isprime → e.n = s.lm ∧ ∃ b, v = verdictWord b ∧ bstRecords e b) :
    OwedStep i s (complete v { s with mre := e })

section Units

variable {s : State}

theorem blockModmul_owed (h : unitsReady .modmul s) : OwedStep .modmul s (blockModmul s) := by
  obtain ⟨hmod, hloaded⟩ := h
  have hm := hmod rfl
  unfold blockModmul
  cases hload : s.loaded with
  | false =>
    refine .goesOn ⟨rfl, rfl, rfl⟩ rfl rfl ⟨hmod, fun _ => ⟨rfl, mulLoad_a_lt _ _ hm, mulLoad_r_lt _ _ hm⟩⟩ ?_
    rw [valueOwed_of_not_loaded _ hload]
    rfl
  | true =>
    obtain ⟨hmul, ha, hr⟩ := hloaded hload
    rw [← hmul] at ha hr
    rw [Bool.not_true, if_neg Bool.false_ne_true]
    by_cases hb : s.mul.b = 0#64
    · rw [if_neg (not_not.mpr hb)]
      refine .completes (e := s.mre) ?_ nofun
      rw [valueOwed_modmul hload, hb, mulWhile_done]
    · rw [if_pos hb]
      refine .goesOn ⟨rfl, rfl, rfl⟩ rfl rfl
        ⟨hmod, fun _ => ⟨hmul, hmul ▸ mulIterate_a_lt ha, hmul ▸ mulIterate_r_lt ha hr⟩⟩ ?_
      rw [valueOwed_modmul hload, mulWhile_unroll _ _ _ hb]
      exact valueOwed_modmul rfl

theorem blockModpow_owed (h : unitsReady .modpow s) : OwedStep .modpow s (blockModpow s) := by
  obtain ⟨hmod, hloaded⟩ := h
  have hm := hmod rfl
  unfold blockModpow
  cases hload : s.loaded with
  | false =>
    refine .goesOn ⟨rfl, rfl, rfl⟩ rfl rfl ⟨hmod, fun _ => ⟨rfl, powLoad_a_lt _ s.lb hm, fun h1 => BitVec.lt_def.mpr h1⟩⟩ ?_
    rw [valueOwed_of_not_loaded _ hload]
    rfl
  | true =>
    obtain ⟨hpow, -, hr⟩ := hloaded hload
    rw [← hpow] at hm hr
    rw [Bool.not_true, if_neg Bool.false_ne_true]
    by_cases hb : s.pow.b = 0#64
    · rw [if_neg (not_not.mpr hb)]
      refine .completes (e := s.mre) ?_ nofun
      rw [valueOwed_modpow hload, hb, powWhile_done]
    · rw [if_pos hb]
      refine .goesOn ⟨rfl, rfl, rfl⟩ rfl rfl
        ⟨hmod, fun _ => ⟨hpow, hpow ▸ powIterate_a_lt hm, hpow ▸ fun h1 => powIterate_r_lt hm (hr h1)⟩⟩ ?_
      rw [valueOwed_modpow hload, powWhile_unroll _ _ _ hb]
      exact valueOwed_modpow rfl

theorem blockIsprime_owed (h : unitsReady .isprime s) : OwedStep .isprime s (blockIsprime s) := by
  obtain ⟨hmod, hloaded⟩ := h
  cases hload : s.loaded with
  | false =>
    have hblock : blockIsprime s = mreLoad s := by rw [blockIsprime, hload]; rfl
    rw [hblock]
    refine .goesOn ⟨rfl, rfl, rfl⟩ rfl rfl ⟨hmod, fun _ => ⟨rfl, mreReady_mreLoad s⟩⟩ ?_
    rw [valueOwed_of_not_loaded _ hload]
    rfl
  | true =>
    obtain ⟨hn, hready⟩ := hloaded hload
    have hstep := blockIsprime_step hload hready
    generalize blockIsprime s = s' at hstep
    cases hstep with
    | goesOn h =>
      refine .goesOn ⟨rfl, rfl, rfl⟩ rfl rfl ⟨hmod, fun _ => ⟨h.n_eq.trans hn, h.ready⟩⟩ ?_
      rw [valueOwed_isprime hload, ← h.verdict]
      exact valueOwed_isprime hload
    | @finishes v e hv he hbst =>
      exact .completes (by rw [valueOwed_isprime hload, hv]) fun _ => ⟨he.trans hn, v, rfl, hbst⟩

theorem blockStep_owed {i : Instr} (hcmd : decodeWord s.cmd = some i) (h : unitsReady i s) :
    OwedStep i s (blockStep s) := by
  unfold blockStep
  rw [hcmd]
  cases i with
  | modadd => exact .completes (e := s.mre) rfl nofun
  | modsub => exact .completes (e := s.mre) rfl nofun
  | modmul => exact blockModmul_owed h
  | modpow => exact blockModpow_owed h
  | isprime => exact blockIsprime_owed h

end Units

theorem verdictWord_injective : Function.Injective verdictWord := by
  unfold Function.Injective; decide

theorem PhaseLegal.done_of_busy {s : State} (h : PhaseLegal s) (hbusy : s.status.busy = true) :
    s.status.done = false := by
  obtain ⟨hboth, -⟩ := (phaseOf_isSome_iff s.status).mp h
  exact Bool.eq_false_of_not_eq_true fun hdone => hboth ⟨hbusy, hdone⟩

theorem inv_blockStep {s : State} (hbusy : s.status.busy = true) (h : Inv s) : Inv (blockStep s) := by
  obtain ⟨hphase, hlegal, howes, -⟩ := h
  obtain ⟨i, hcmd, hready, howed⟩ := howes hbusy
  have hphase' := phaseLegal_blockStep hbusy hphase
  have hstep := blockStep_owed hcmd hready
  generalize blockStep s = s' at hstep hphase'
  cases hstep with
  | goesOn hlatches hcmd' hstatus hready' howed' =>
    obtain ⟨hla, hlb, hlm⟩ := hlatches
    refine ⟨hphase', by rwa [CmdLegal, hcmd'], fun _ => ⟨i, by rwa [hcmd'], hready', ?_⟩, fun hdone => ?_⟩
    · rw [howed', howed, hla, hlb, hlm]
    · rw [hstatus, hphase.done_of_busy hbusy] at hdone
      exact Bool.noConfusion hdone
  | completes hv hbst =>
    refine ⟨hphase', hlegal, nofun, fun _ => ⟨i, hcmd, hv.symm.trans howed, ?_⟩⟩
    rintro rfl
    obtain ⟨hn, b, hb, hrecord⟩ := hbst rfl
    obtain rfl : b = MRV s.lm := verdictWord_injective (hb.symm.trans (hv.symm.trans howed))
    exact ⟨hn, hrecord⟩

/-- The invariant speaks of the registers a level-B step works with, and of `CMD`. -/
theorem inv_graft {s u : State} (hcmd : u.cmd = s.cmd) (h : Inv s) : Inv (s.graft u) := by
  have hc : (s.graft u).cmd = s.cmd := hcmd
  unfold Inv CmdLegal RunningOwes DoneDelivers
  rw [hc]
  exact h

theorem inv_blockTurn {s : State} (h : Inv s) : Inv (blockTurn s) := by
  obtain ⟨k, ts, c, heq⟩ := blockTurn_eq_blockSteps s
  rw [heq]
  exact blockSteps_keeps (fun _ => inv_blockStep) k _
    (inv_graft (s := s) (u := { s with turns := ts, turnCount := c }) rfl h)

/-! ## The host's part of an edge -/

theorem inv_accept {i : Instr} {s : State} (hfault : anyFault s.status = false)
    (hm : needsModulus i = true → s.opm ≠ 0#64) : Inv (accept (encode i) s) :=
  ⟨phaseLegal_accept _ hfault, Option.isSome_of_eq_some (decodeWord_encode i),
    fun _ => ⟨i, decodeWord_encode i, ⟨hm, nofun⟩, valueOwed_of_not_loaded i rfl⟩, nofun⟩

theorem inv_of_not_busy_not_done {s : State} (hphase : PhaseLegal s) (hlegal : CmdLegal s)
    (hbusy : s.status.busy = false) (hdone : s.status.done = false) : Inv s :=
  ⟨hphase, hlegal, fun h => Bool.noConfusion (hbusy.symm.trans h), fun h => Bool.noConfusion (hdone.symm.trans h)⟩

theorem inv_faultEntry (c : Cause) {s : State} (hlegal : CmdLegal s) (hfault : anyFault s.status = false) :
    Inv (faultEntry c s) :=
  inv_of_not_busy_not_done (phaseLegal_faultEntry c hfault) hlegal (statusFaulted_busy ..) (statusFaulted_done ..)

theorem cmdLegal_resetEvent (s : State) : CmdLegal (resetEvent s) := by
  rw [CmdLegal, resetEvent_cmd]
  rfl

theorem inv_resetEvent (s : State) : Inv (resetEvent s) :=
  inv_of_not_busy_not_done (phaseLegal_resetEvent s) (cmdLegal_resetEvent s) rfl rfl

theorem inv_commandOf (i : Instr) {s : State} (h : Inv s) : Inv (commandOf i s) := by
  obtain ⟨-, hlegal, -⟩ := id h
  obtain ⟨-, heq⟩ | ⟨hf, -, heq⟩ | ⟨hf, -, -, -, heq⟩ | ⟨hf, -, hm, heq⟩ := commandOf_cases i s <;> rw [heq]
  · exact h
  · exact inv_faultEntry _ hlegal hf
  · exact inv_faultEntry _ hlegal hf
  · exact inv_accept hf hm

theorem inv_reservedCommand {s : State} (h : Inv s) : Inv (reservedCommand s) := by
  obtain ⟨-, hlegal, -⟩ := id h
  obtain ⟨-, heq⟩ | ⟨hf, -, heq⟩ | ⟨hf, -, heq⟩ := reservedCommand_cases s <;> rw [heq]
  · exact h
  · exact inv_faultEntry _ hlegal hf
  · exact inv_faultEntry _ hlegal hf

theorem inv_afterCommand (w : Word) {s : State} (h : Inv s) : Inv (afterCommand w s) := by
  unfold afterCommand
  cases decodeWord w with
  | some i => exact inv_commandOf i h
  | none => exact inv_reservedCommand h

section HostTransaction

variable {p : PortsIn} (hreq : p.req = true) (s : State)

theorem afterHost_of_no_request (hreq : p.req = false) : afterHost p s = s := by
  rw [afterHost, hreq, if_neg Bool.false_ne_true]

include hreq

theorem afterHost_read (hwe : p.we = false) : afterHost p s = readToLog p.idx s := by
  rw [afterHost, if_pos hreq, hwe, if_neg Bool.false_ne_true]

theorem afterHost_store (hwe : p.we = true) (hidx : p.idx ≠ 3#3) :
    afterHost p s = storeRegister p.idx p.wdata s := by
  rw [afterHost, if_pos hreq, if_pos hwe, if_neg hidx]

theorem afterHost_command (hwe : p.we = true) (hidx : p.idx = 3#3) : afterHost p s = afterCommand p.wdata s := by
  rw [afterHost, if_pos hreq, if_pos hwe, if_pos hidx]

end HostTransaction

theorem request_of_not_quiet {p : PortsIn} (hrst : p.rst = false) (hp : ¬QuietPorts p) :
    p.req = true ∧ p.we = true ∧ p.idx = 3#3 :=
  not_not.mp fun hquiet => hp ⟨hrst, hquiet⟩

theorem readToLog_eq_graft (i : RegIndex) (s : State) : readToLog i s = s.graft (readToLog i s) := by
  unfold readToLog afterRead
  split <;> rfl

/-- A host transaction other than a write to `CMD` reaches neither `CMD`, the schedule nor a register the block works
with. -/
structure HostQuiet (s u : State) : Prop where
  graft : u = s.graft u
  cmd : u.cmd = s.cmd
  turns : u.turns = s.turns
  turnCount : u.turnCount = s.turnCount
  script : u.script = s.script

theorem afterHost_quiet {p : PortsIn} (hp : QuietPorts p) (s : State) : HostQuiet s (afterHost p s) := by
  obtain ⟨-, hloud⟩ := hp
  unfold afterHost
  split_ifs with hreq hwe hidx
  · exact absurd ⟨hreq, hwe, hidx⟩ hloud
  · exact ⟨storeRegister_eq_graft .., storeRegister_cmd .., storeRegister_turns .., storeRegister_turnCount ..,
      storeRegister_script ..⟩
  · exact ⟨readToLog_eq_graft .., readToLog_cmd .., readToLog_turns .., readToLog_turnCount .., readToLog_script ..⟩
  · exact ⟨rfl, rfl, rfl, rfl, rfl⟩

/-! ## A step -/

/-- The three kinds of edge: a reset, a write to `CMD`, and any other, at which the host leaves the block alone. -/
inductive EdgeKind (s : State) : State → Prop
  | reset {p : PortsIn} {rest : List HostStmt} (hscript : s.script = .edge p :: rest) (hp : ¬QuietPorts p) :
    EdgeKind s (resetEvent { s with script := rest })
  | command {p : PortsIn} {rest : List HostStmt} (hscript : s.script = .edge p :: rest) (hp : ¬QuietPorts p) :
    EdgeKind s (blockTurn (afterCommand p.wdata { s with script := rest }))
  | quiet {u : State} (hcmd : u.cmd = s.cmd) (hturns : u.turns = s.turns) (hcount : u.turnCount = s.turnCount)
    (hscript : u.script <:+ s.script) : EdgeKind s (blockTurn (s.graft u))

theorem edgeKind_edge {s : State} {p : PortsIn} {rest : List HostStmt} (hscript : s.script = .edge p :: rest) :
    EdgeKind s (afterStep s) := by
  by_cases hp : QuietPorts p
  · obtain ⟨hgraft, hcmd, hturns, hcount, hsame⟩ := afterHost_quiet hp { s with script := rest }
    rw [afterStep_edge hscript hp.1, hgraft]
    exact .quiet hcmd hturns hcount (by rw [hsame, hscript]; exact List.suffix_cons ..)
  · cases hrst : p.rst with
    | true =>
      rw [afterStep_reset hscript hrst]
      exact .reset hscript hp
    | false =>
      obtain ⟨hreq, hwe, hidx⟩ := request_of_not_quiet hrst hp
      rw [afterStep_edge hscript hrst, afterHost_command hreq _ hwe hidx]
      exact .command hscript hp

theorem edgeKind_afterStep (s : State) : EdgeKind s (afterStep s) := by
  rcases hscript : s.script with _ | ⟨p | _, rest⟩
  · rw [afterStep_nil hscript]
    exact .quiet (u := s) rfl rfl rfl (List.suffix_refl _)
  · exact edgeKind_edge hscript
  · rw [afterStep_wait hscript, pollWait]
    split
    · exact .quiet (u := { s with script := rest, readLog := s.readLog ++ [readValue 4#3 s] }) rfl rfl rfl
        (hscript ▸ List.suffix_cons ..)
    · exact .quiet (u := s) rfl rfl rfl (List.suffix_refl _)

theorem inv_afterStep {s : State} (h : Inv s) : Inv (afterStep s) := by
  have hkind := edgeKind_afterStep s
  generalize afterStep s = t at hkind
  cases hkind with
  | reset => exact inv_resetEvent _
  | @command p rest =>
    exact inv_blockTurn (inv_afterCommand _ (inv_graft (s := s) (u := { s with script := rest }) rfl h))
  | quiet hcmd => exact inv_blockTurn (inv_graft hcmd h)

end Sys2Proof.Machine

namespace Sys2Proof

open Machine

/-- Settles O46 (R25, R27, R29, R35, R160): the host's part of an edge keeps the invariant, and so does every level-B
step, which owes what its registers owed before or pays it. -/
theorem everyStepKeepsTheInvariant : Obligations.EveryStepKeepsTheInvariant := by
  intro s t h hst
  obtain rfl : afterStep s = t := Host.Outcome.next.inj ((step_eq s).symm.trans hst)
  exact inv_afterStep h

end Sys2Proof

/-! PROOF of O47. From registers that fit it a running command delivers the value they owe (R35); a host that neither
resets nor writes `CMD` leaves these registers alone, and the edges the block sits out come to an end (R255). -/

namespace Sys2Proof.Machine

/-! ## The block alone, from the middle of a command -/

theorem delivers_of_mreReady {s : State} (h : Runs .isprime s) (hload : s.loaded = true) (hready : mreReady s.mre) :
    Delivers (verdictWord (mreVerdict s.mre)) s := by
  have hat {ph : MrePhase} (hph : s.mre.ph = ph) : EngineAt ph s.mre.n s.mre.d s.mre.r.toNat s :=
    ⟨h, hload, hph, rfl, rfl, rfl⟩
  cases hph : s.mre.ph with
  | classify =>
    rw [mreVerdict_classify hph]
    exact (hat hph).delivers_classify
  | decomp =>
    obtain ⟨-, hn, hodd, hsplit⟩ := (mreReady_decomp hph).mp hready
    have hd : s.mre.d ≠ 0#64 := fun h0 => by rw [h0, BitVec.toNat_zero, Nat.zero_mul] at hsplit; omega
    rw [mreVerdict_decomp hph]
    exact (hat hph).delivers_decomp hd hodd hsplit
  | base =>
    obtain ⟨-, -, -, hr, hi, -⟩ := (mreReady_base hph).mp hready
    rw [mreVerdict_base hph]
    exact (hat hph).delivers_base hi hr
  | square =>
    obtain ⟨-, -, -, hj, hi, -⟩ := (mreReady_square hph).mp hready
    rw [mreVerdict_square hph, apply_ite verdictWord]
    refine (hat hph).delivers_square hi fun t ht hti => ?_
    rw [← hti]
    exact ht.delivers_base (hti.trans_le hi) (Nat.zero_lt_of_lt hj)
  | unnamed k => simp only [mreReady, hph] at hready

theorem Runs.delivers_owed {i : Instr} {s : State} (h : Runs i s) (hready : unitsReady i s) :
    Delivers (valueOwed i s) s := by
  cases hload : s.loaded with
  | false =>
    rw [valueOwed_of_not_loaded i hload]
    exact h.delivers hload
  | true =>
    cases i with
    | modadd => exact h.modadd (delivers_complete _ h.status)
    | modsub => exact h.modsub (delivers_complete _ h.status)
    | modmul =>
      rw [valueOwed_modmul hload]
      exact delivers_mulWhile h hload
    | modpow =>
      rw [valueOwed_modpow hload]
      exact delivers_powWhile h hload
    | isprime =>
      obtain ⟨-, hloaded⟩ := hready
      rw [valueOwed_isprime hload]
      exact delivers_of_mreReady h hload (hloaded hload).2

theorem Inv.delivers {i : Instr} {s : State} (h : Inv s) (hbusy : s.status.busy = true)
    (hcmd : decodeWord s.cmd = some i) : Delivers (commandValue i s.la s.lb s.lm) s := by
  obtain ⟨hphase, -, howes, -⟩ := h
  obtain ⟨j, hj, hready, howed⟩ := howes hbusy
  obtain rfl : j = i := Option.some.inj (hj.symm.trans hcmd)
  have hstatus : s.status = busyStatus := by
    have hdone := hphase.done_of_busy hbusy
    have hfault := faultBits_eq_zero (hphase.anyFault_of_busy hbusy)
    exact (phaseOf_eq_busy_iff _).mp (by rw [phaseOf, hbusy, hdone, hfault]; rfl)
  rw [← howed]
  exact Runs.delivers_owed ⟨hstatus, hcmd⟩ hready

/-! ## Under any schedule, beside a quiet host -/

theorem takeTurn_fst_congr {s t : State} (hturns : t.turns = s.turns) (hcount : t.turnCount = s.turnCount) :
    (takeTurn t).1 = (takeTurn s).1 := by
  unfold takeTurn
  rw [hturns, hcount]
  cases s.turns <;> rfl

theorem QuietScript.of_suffix {l l' : List HostStmt} (h : QuietScript l) (hsuffix : l' <:+ l) : QuietScript l' :=
  fun p hp => h p (hsuffix.subset hp)

/-- A step beside a quiet host is the block's part of an edge; the host changes nothing of its schedule. -/
theorem afterStep_of_quiet {s : State} (h : QuietScript s.script) :
    ∃ u : State, u.cmd = s.cmd ∧ QuietScript u.script ∧ (takeTurn (s.graft u)).1 = (takeTurn s).1 ∧
      afterStep s = blockTurn (s.graft u) := by
  have hquiet {p : PortsIn} {rest : List HostStmt} (hscript : s.script = .edge p :: rest) : QuietPorts p :=
    h p (hscript ▸ List.mem_cons_self ..)
  have hkind := edgeKind_afterStep s
  generalize afterStep s = t at hkind ⊢
  cases hkind with
  | reset hscript hp => exact absurd (hquiet hscript) hp
  | command hscript hp => exact absurd (hquiet hscript) hp
  | @quiet u hcmd hturns hcount hscript =>
    exact ⟨u, hcmd, h.of_suffix hscript, takeTurn_fst_congr hturns hcount, rfl⟩

/-- The edges a busy block sits out come to an end (R255): it moves. -/
theorem leads_of_quiet_busy {s : State} {P : State → Prop} (hscript : QuietScript s.script)
    (hbusy : s.status = busyStatus)
    (hP : ∀ (k : Nat) (u : State), u.cmd = s.cmd → QuietScript u.script → Leads (blockSteps (k + 1) (s.graft u)) P) :
    Leads s P := by
  induction hk : (takeTurn s).1.idle generalizing s with
  | zero =>
    obtain ⟨u, hcmd, hquiet, hturn, heq⟩ := afterStep_of_quiet hscript
    obtain ⟨k, ts, c, hmoves⟩ := blockTurn_moves (s := s.graft u) (congrArg Status.busy hbusy) (by rw [hturn, hk])
    refine .step ?_
    rw [heq, hmoves]
    exact hP k { u with turns := ts, turnCount := c } hcmd hquiet
  | succ k ih =>
    obtain ⟨u, hcmd, hquiet, hturn, heq⟩ := afterStep_of_quiet hscript
    obtain ⟨e, ts, c, hsits⟩ := blockTurn_sitsOut (s := s.graft u) (congrArg Status.busy hbusy) (by rw [hturn, hk])
    refine .step ?_
    rw [heq, hsits]
    exact ih hquiet hbusy (fun k' u' hu => hP k' u' (hu.trans hcmd)) rfl

/-- What stands when command word w has delivered v. -/
structure DoneWith (w v : Word) (t : State) : Prop where
  status : t.status = doneStatus
  result : t.result = v
  cmd : t.cmd = w

/-- What the block delivers when left to itself it delivers under any schedule beside a quiet host. -/
theorem Delivers.leads_of_quiet {v : Word} {s : State} (h : Delivers v s) :
    ∀ (k : Nat) (u : State), u.cmd = s.cmd → QuietScript u.script →
      Leads (blockSteps k (s.graft u)) (DoneWith s.cmd v) := by
  induction h with
  | @completed s hstatus hresult =>
    intro k u hcmd hscript
    have hrest : blockSteps k (s.graft u) = s.graft u := by
      cases k with
      | zero => rfl
      | succ k => exact if_neg (by rw [show (s.graft u).status = doneStatus from hstatus]; decide)
    rw [hrest]
    exact .here ⟨hstatus, hresult, hcmd⟩
  | @running s hstatus _ ih =>
    intro k u hcmd hscript
    have hmove : ∀ (k : Nat) (u : State), u.cmd = s.cmd → QuietScript u.script →
        Leads (blockSteps (k + 1) (s.graft u)) (DoneWith s.cmd v) := by
      intro k u hcmd hscript
      rw [blockSteps_succ (s := s.graft u) (congrArg Status.busy hstatus), blockStep_graft hcmd, ← blockStep_cmd s]
      exact ih k u (hcmd.trans (blockStep_cmd s).symm) hscript
    cases k with
    | zero => exact leads_of_quiet_busy (s := s.graft u) hscript hstatus fun k u' hu => hmove k u' (hu.trans hcmd)
    | succ k => exact hmove k u hcmd hscript

end Sys2Proof.Machine

namespace Sys2Proof

open Machine

/-- Settles O47 (R255, R257, R221): the invariant says what the running command's registers owe, and no host that is
quiet and no schedule keeps the block from paying it. -/
theorem everyRunningCommandCompletes : Obligations.EveryRunningCommandCompletes := by
  intro s i h hbusy hcmd hscript
  obtain ⟨n, t, hrun, ht⟩ := (h.delivers hbusy hcmd).leads_of_quiet 0 s rfl hscript
  exact ⟨n, t, hrun, ht.status ▸ rfl, ht.status ▸ rfl, by rw [NoFault, ht.status]; rfl, ht.cmd, ht.result⟩

end Sys2Proof

/-! PROOF of O48. Acceptance starts the command; with no host statement pending nothing but the block moves. -/

namespace Sys2Proof.Machine

/-- A command written while the block is idle is accepted, a modular one with `OPM != 0` (R75). -/
theorem exec_of_idle {i : Instr} {s : State} (h : Idle s) (hm : i ≠ .isprime → s.opm ≠ 0#64) :
    exec i s = .next (accept (encode i) s) := by
  rw [exec_eq, commandOf_of_idle h hm]

/-- With no host statement pending the operand registers stay. -/
theorem runsTo_operands {n : Nat} {s t : State} (hrun : runsTo n s t) (hscript : s.script = []) :
    t.opa = s.opa ∧ t.opb = s.opb ∧ t.opm = s.opm := by
  induction n generalizing s with
  | zero =>
    obtain rfl := (runsTo_zero s t).mp hrun
    exact ⟨rfl, rfl, rfl⟩
  | succ n ih =>
    obtain ⟨k, ts, c, heq⟩ := blockTurn_eq_blockSteps s
    have hframe := blockSteps_frame k { s with turns := ts, turnCount := c }
    rw [runsTo_succ, afterStep_nil hscript, heq] at hrun
    generalize blockSteps k { s with turns := ts, turnCount := c } = u at hframe hrun
    cases hframe
    have hkept := ih hrun hscript
    exact hkept

end Sys2Proof.Machine

namespace Sys2Proof

open Machine

/-- Settles O48 (R29, R75): the command is accepted, and what it then delivers is its function value of the latches. -/
theorem everyCommandDeliversItsValue : Obligations.EveryCommandDeliversItsValue := by
  intro s i h hm hscript
  refine ⟨accept (encode i) s, exec_of_idle h hm, ?_⟩
  have hquiet : QuietScript s.script := by rw [hscript]; exact fun p hp => absurd hp List.not_mem_nil
  obtain ⟨n, u, hrun, hu⟩ := ((runs_accept h).delivers rfl).leads_of_quiet 0 (accept (encode i) s) rfl hquiet
  obtain ⟨hopa, hopb, hopm⟩ := runsTo_operands hrun hscript
  exact ⟨n, u, hrun, hu.status ▸ rfl, hu.status ▸ rfl, by rw [NoFault, hu.status]; rfl, hu.cmd, hu.result,
    hopa, hopb, hopm⟩

end Sys2Proof

/-! PROOF of O50. Two blocks that differ in hidden registers only run alike as long as they agree, while a command runs,
in the hidden registers its next steps read: the latches from acceptance on, and of a unit's registers those that its
load step or a later one has set. -/

namespace Sys2Proof.Machine

/-- s with the hidden registers of t (R30 to R33) and the place of its sequencer. -/
def State.hiddenFrom (s t : State) : State :=
  { s with la := t.la, lb := t.lb, lm := t.lm, mul := t.mul, pow := t.pow, mre := t.mre, loaded := t.loaded }

/-- The two engines agree in every register the phase they are in still reads (R158). -/
def MreAgree (e f : MreRegs) : Prop :=
  f.ph = e.ph ∧ f.n = e.n ∧
    match e.ph with
    | .classify => True
    | .decomp => f.d = e.d ∧ f.r = e.r
    | .base => f.d = e.d ∧ f.r = e.r ∧ f.i = e.i
    | .square => f.d = e.d ∧ f.r = e.r ∧ f.i = e.i ∧ f.x = e.x ∧ f.j = e.j
    | .unnamed _ => True

section Phases

variable {e f : MreRegs}

theorem mreAgree_classify (h : e.ph = .classify) : MreAgree e f ↔ f.ph = e.ph ∧ f.n = e.n := by
  simp only [MreAgree, h, and_true]

theorem mreAgree_decomp (h : e.ph = .decomp) :
    MreAgree e f ↔ f.ph = e.ph ∧ f.n = e.n ∧ f.d = e.d ∧ f.r = e.r := by
  simp only [MreAgree, h]

theorem mreAgree_base (h : e.ph = .base) :
    MreAgree e f ↔ f.ph = e.ph ∧ f.n = e.n ∧ f.d = e.d ∧ f.r = e.r ∧ f.i = e.i := by
  simp only [MreAgree, h]

theorem mreAgree_square (h : e.ph = .square) :
    MreAgree e f ↔ f.ph = e.ph ∧ f.n = e.n ∧ f.d = e.d ∧ f.r = e.r ∧ f.i = e.i ∧ f.x = e.x ∧ f.j = e.j := by
  simp only [MreAgree, h]

end Phases

/-- The registers of command i's own unit agree. -/
def UnitAgree (i : Instr) (s t : State) : Prop :=
  match i with
  | .modadd => True
  | .modsub => True
  | .modmul => t.mul = s.mul
  | .modpow => t.pow = s.pow
  | .isprime => MreAgree s.mre t.mre

/-- Running, the two blocks agree in what the command's next steps read. -/
structure RunningAgree (s t : State) : Prop where
  la : t.la = s.la
  lb : t.lb = s.lb
  lm : t.lm = s.lm
  loaded : t.loaded = s.loaded
  unit : ∀ i, decodeWord s.cmd = some i → s.loaded = true → UnitAgree i s t

/-- The host cannot tell the two blocks apart, now or later. -/
structure Alike (s t : State) : Prop where
  same : t = s.hiddenFrom t
  running : s.status.busy = true → RunningAgree s t

theorem Alike.of_not_busy {s t : State} (hidle : s.status.busy = false) (hsame : t = s.hiddenFrom t) : Alike s t :=
  ⟨hsame, fun hbusy => Bool.noConfusion (hidle.symm.trans hbusy)⟩

theorem Alike.status {s t : State} (h : Alike s t) : t.status = s.status := by
  rw [h.same]
  rfl

/-! ## A level-B step -/

section Steps

variable {s : State} {q : MulRegs} {p : PowRegs} {e : MreRegs}

/-- The step of a command that goes on, seen in both blocks. -/
theorem alike_goesOn {i : Instr} (hcmd : decodeWord s.cmd = some i) {q q' : MulRegs} {p p' : PowRegs}
    {e e' : MreRegs} {l : Bool}
    (hunit : UnitAgree i { s with mul := q, pow := p, mre := e } { s with mul := q', pow := p', mre := e' }) :
    Alike { s with mul := q, pow := p, mre := e, loaded := l }
      { s with mul := q', pow := p', mre := e', loaded := l } := by
  refine ⟨rfl, fun _ => ⟨rfl, rfl, rfl, rfl, fun j hj _ => ?_⟩⟩
  obtain rfl : i = j := Option.some.inj (hcmd.symm.trans hj)
  cases i <;> exact hunit

theorem blockModmul_alike (hcmd : decodeWord s.cmd = some .modmul) (hmul : s.loaded = true → q = s.mul) :
    Alike (blockModmul s) (blockModmul { s with mul := q, pow := p, mre := e }) := by
  unfold blockModmul
  dsimp only
  cases hload : s.loaded with
  | false => exact alike_goesOn (s := s) hcmd (q := mulLoad s.la s.lb s.lm) rfl
  | true =>
    obtain rfl := hmul hload
    rw [Bool.not_true, if_neg Bool.false_ne_true, if_neg Bool.false_ne_true]
    split_ifs
    · exact alike_goesOn (s := s) hcmd (q := mulIterate s.mul) rfl
    · exact .of_not_busy rfl rfl

theorem blockModpow_alike (hcmd : decodeWord s.cmd = some .modpow) (hpow : s.loaded = true → p = s.pow) :
    Alike (blockModpow s) (blockModpow { s with mul := q, pow := p, mre := e }) := by
  unfold blockModpow
  dsimp only
  cases hload : s.loaded with
  | false => exact alike_goesOn (s := s) hcmd (p := powLoad s.la s.lb s.lm) rfl
  | true =>
    obtain rfl := hpow hload
    rw [Bool.not_true, if_neg Bool.false_ne_true, if_neg Bool.false_ne_true]
    split_ifs
    · exact alike_goesOn (s := s) hcmd (p := powIterate s.pow) rfl
    · exact .of_not_busy rfl rfl

section Engine

variable (hcmd : decodeWord s.cmd = some .isprime) (h : MreAgree s.mre e)

include hcmd h

theorem mreClassify_alike (hph : s.mre.ph = .classify) :
    Alike (mreClassify s) (mreClassify { s with mul := q, pow := p, mre := e }) := by
  obtain ⟨n, d, r, i, x, j, ph, bst⟩ := e
  obtain ⟨rfl, rfl⟩ := (mreAgree_classify hph).mp h
  unfold mreClassify
  dsimp only
  split_ifs
  · exact .of_not_busy rfl rfl
  · exact .of_not_busy rfl rfl
  · exact .of_not_busy rfl rfl
  · exact alike_goesOn hcmd ((mreAgree_decomp rfl).mpr ⟨rfl, rfl, rfl, rfl⟩)

theorem mreHalve_alike (hph : s.mre.ph = .decomp) :
    Alike (mreHalve s) (mreHalve { s with mul := q, pow := p, mre := e }) := by
  obtain ⟨n, d, r, i, x, j, ph, bst⟩ := e
  obtain ⟨rfl, rfl, rfl, rfl⟩ := (mreAgree_decomp hph).mp h
  unfold mreHalve
  dsimp only
  split_ifs
  · exact alike_goesOn hcmd ((mreAgree_decomp (by exact hph)).mpr ⟨rfl, rfl, rfl, rfl⟩)
  · exact alike_goesOn hcmd ((mreAgree_base rfl).mpr ⟨rfl, rfl, rfl, rfl, rfl⟩)

theorem mreBase_alike (hph : s.mre.ph = .base) :
    Alike (mreBase s) (mreBase { s with mul := q, pow := p, mre := e }) := by
  obtain ⟨n, d, r, i, x, j, ph, bst⟩ := e
  obtain ⟨rfl, rfl, rfl, rfl, rfl⟩ := (mreAgree_base hph).mp h
  unfold mreBase
  dsimp only
  split_ifs
  · exact .of_not_busy rfl rfl
  · exact .of_not_busy rfl rfl
  · exact alike_goesOn hcmd ((mreAgree_base (by exact hph)).mpr ⟨rfl, rfl, rfl, rfl, rfl⟩)
  · exact alike_goesOn hcmd ((mreAgree_square rfl).mpr ⟨rfl, rfl, rfl, rfl, rfl, rfl, rfl⟩)

theorem mreSquare_alike (hph : s.mre.ph = .square) :
    Alike (mreSquare s) (mreSquare { s with mul := q, pow := p, mre := e }) := by
  obtain ⟨n, d, r, i, x, j, ph, bst⟩ := e
  obtain ⟨rfl, rfl, rfl, rfl, rfl, rfl, rfl⟩ := (mreAgree_square hph).mp h
  unfold mreSquare
  dsimp only
  split_ifs
  · exact .of_not_busy rfl rfl
  · exact alike_goesOn hcmd ((mreAgree_base rfl).mpr ⟨rfl, rfl, rfl, rfl, rfl⟩)
  · exact alike_goesOn hcmd ((mreAgree_square (by exact hph)).mpr ⟨rfl, rfl, rfl, rfl, rfl, rfl, rfl⟩)

end Engine

theorem blockIsprime_alike (hcmd : decodeWord s.cmd = some .isprime)
    (hmre : s.loaded = true → MreAgree s.mre e) :
    Alike (blockIsprime s) (blockIsprime { s with mul := q, pow := p, mre := e }) := by
  unfold blockIsprime
  dsimp only
  split_ifs with hload
  · exact alike_goesOn (s := s) hcmd (e := (mreLoad s).mre) ((mreAgree_classify rfl).mpr ⟨rfl, rfl⟩)
  · have h := hmre (by simpa using hload)
    obtain ⟨hph', -⟩ := id h
    rw [hph']
    cases hph : s.mre.ph with
    | classify => exact mreClassify_alike hcmd h hph
    | decomp => exact mreHalve_alike hcmd h hph
    | base => exact mreBase_alike hcmd h hph
    | square => exact mreSquare_alike hcmd h hph
    | unnamed k => exact alike_goesOn hcmd h

theorem blockStep_alike {i : Instr} (hcmd : decodeWord s.cmd = some i)
    (hunit : s.loaded = true → UnitAgree i s { s with mul := q, pow := p, mre := e }) :
    Alike (blockStep s) (blockStep { s with mul := q, pow := p, mre := e }) := by
  unfold blockStep
  dsimp only
  rw [hcmd]
  cases i with
  | modadd => exact .of_not_busy rfl rfl
  | modsub => exact .of_not_busy rfl rfl
  | modmul => exact blockModmul_alike hcmd hunit
  | modpow => exact blockModpow_alike hcmd hunit
  | isprime => exact blockIsprime_alike hcmd hunit

end Steps

theorem Alike.blockStep {s t : State} (h : Alike s t) (hbusy : s.status.busy = true) :
    Alike (blockStep s) (blockStep t) := by
  obtain ⟨hla, hlb, hlm, hloaded, hunit⟩ := h.running hbusy
  have ht : t = { s with mul := t.mul, pow := t.pow, mre := t.mre } := by
    have hsame := h.same
    rwa [State.hiddenFrom, hla, hlb, hlm, hloaded] at hsame
  cases hcmd : decodeWord s.cmd with
  | none =>
    have hcmd' : decodeWord t.cmd = none := by rw [ht]; exact hcmd
    rwa [Machine.blockStep, Machine.blockStep, hcmd, hcmd']
  | some i =>
    rw [ht]
    exact blockStep_alike hcmd fun hload => ht ▸ hunit i hcmd hload

theorem Alike.blockSteps {s t : State} (h : Alike s t) (k : Nat) : Alike (blockSteps k s) (blockSteps k t) := by
  induction k generalizing s t with
  | zero => exact h
  | succ k ih =>
    rw [Machine.blockSteps, Machine.blockSteps, h.status]
    split_ifs with hbusy
    · exact ih (h.blockStep hbusy)
    · exact h

/-! ## The schedule and the host -/

/-- What the block does not work with may change, in both blocks alike. -/
theorem Alike.graft {s t u : State} (h : Alike s t) (hcmd : u.cmd = s.cmd) :
    Alike (s.graft u) ((s.graft u).hiddenFrom t) := by
  refine ⟨rfl, fun hbusy => ?_⟩
  obtain ⟨hla, hlb, hlm, hloaded, hunit⟩ := h.running hbusy
  refine ⟨hla, hlb, hlm, hloaded, fun i hi hload => ?_⟩
  have hagree := hunit i (hcmd ▸ hi) hload
  cases i <;> exact hagree

theorem Alike.schedule {s t : State} (h : Alike s t) (ts : List Turn) (c : Nat) :
    Alike { s with turns := ts, turnCount := c } { t with turns := ts, turnCount := c } := by
  rw [h.same]
  exact h.graft (u := { s with turns := ts, turnCount := c }) rfl

theorem Alike.takeTurn {s t : State} (h : Alike s t) :
    (takeTurn t).1 = (takeTurn s).1 ∧ Alike (takeTurn s).2 (takeTurn t).2 := by
  have hturns : t.turns = s.turns := by rw [h.same]; rfl
  have hcount : t.turnCount = s.turnCount := by rw [h.same]; rfl
  unfold Machine.takeTurn
  rw [hturns, hcount]
  cases s.turns with
  | nil => exact ⟨rfl, h.schedule [] _⟩
  | cons turn rest => exact ⟨rfl, h.schedule rest s.turnCount⟩

theorem Alike.blockTurn {s t : State} (h : Alike s t) : Alike (blockTurn s) (blockTurn t) := by
  obtain ⟨hturn, htaken⟩ := h.takeTurn
  have hturns : (Machine.takeTurn t).2.turns = (Machine.takeTurn s).2.turns := by rw [htaken.same]; rfl
  have hcount : (Machine.takeTurn t).2.turnCount = (Machine.takeTurn s).2.turnCount := by rw [htaken.same]; rfl
  unfold Machine.blockTurn
  dsimp only
  rw [h.status, hturn]
  split_ifs
  · exact htaken.blockSteps _
  · rw [hturns, hcount]
    exact htaken.schedule _ _
  · exact h

/-! ## The host -/

theorem readToLog_hiddenFrom (i : RegIndex) (s t : State) :
    readToLog i (s.hiddenFrom t) = (readToLog i s).hiddenFrom t := by
  have hhidden : resultHidden (s.hiddenFrom t) = resultHidden s := rfl
  unfold readToLog afterRead
  rw [hhidden]
  split <;> rfl

theorem storeRegister_hiddenFrom (i : RegIndex) (v : Word) (s t : State) :
    storeRegister i v (s.hiddenFrom t) = (storeRegister i v s).hiddenFrom t := by
  unfold storeRegister
  split <;> rfl

theorem Alike.readToLog {s t : State} (h : Alike s t) (i : RegIndex) : Alike (readToLog i s) (readToLog i t) := by
  rw [h.same, readToLog_hiddenFrom, readToLog_eq_graft]
  exact h.graft (readToLog_cmd ..)

theorem Alike.storeRegister {s t : State} (h : Alike s t) (i : RegIndex) (v : Word) :
    Alike (storeRegister i v s) (storeRegister i v t) := by
  rw [h.same, storeRegister_hiddenFrom, storeRegister_eq_graft]
  exact h.graft (storeRegister_cmd ..)

theorem Alike.faultEntry {s t : State} (h : Alike s t) (c : Cause) : Alike (faultEntry c s) (faultEntry c t) := by
  rw [h.same]
  exact .of_not_busy (statusFaulted_busy ..) rfl

/-- Acceptance sets the latches and the sequencer's place, so the blocks agree from here on (R30). -/
theorem Alike.accept {s t : State} (h : Alike s t) (w : Word) : Alike (accept w s) (accept w t) := by
  rw [h.same]
  exact ⟨rfl, fun _ => ⟨rfl, rfl, rfl, rfl, fun _ _ => nofun⟩⟩

theorem Alike.commandOf {s t : State} (h : Alike s t) (i : Instr) : Alike (commandOf i s) (commandOf i t) := by
  have hopm : t.opm = s.opm := by rw [h.same]; rfl
  unfold Machine.commandOf
  rw [h.status, hopm]
  split_ifs
  · exact h
  · exact h.faultEntry _
  · exact h.faultEntry _
  · exact h.accept _

theorem Alike.reservedCommand {s t : State} (h : Alike s t) : Alike (reservedCommand s) (reservedCommand t) := by
  unfold Machine.reservedCommand
  rw [h.status]
  split_ifs
  · exact h
  · exact h.faultEntry _
  · exact h.faultEntry _

theorem Alike.afterHost {s t : State} (h : Alike s t) (p : PortsIn) : Alike (afterHost p s) (afterHost p t) := by
  unfold Machine.afterHost afterCommand
  split_ifs
  · cases decodeWord p.wdata with
    | some i => exact h.commandOf i
    | none => exact h.reservedCommand
  · exact h.storeRegister ..
  · exact h.readToLog _
  · exact h

theorem Alike.resetEvent {s t : State} (h : Alike s t) : Alike (resetEvent s) (resetEvent t) := by
  rw [h.same]
  exact .of_not_busy rfl rfl

theorem Alike.host {s t : State} (h : Alike s t) (l : List HostStmt) (log : List Word) :
    Alike { s with script := l, readLog := log } { t with script := l, readLog := log } := by
  rw [h.same]
  exact h.graft (u := { s with script := l, readLog := log }) rfl

/-! ## Runs -/

theorem Alike.pollWait {s t : State} (h : Alike s t) (rest : List HostStmt) :
    Alike (pollWait rest s) (pollWait rest t) := by
  have hread : readValue 4#3 t = readValue 4#3 s := congrArg statusWord h.status
  have hlog : t.readLog = s.readLog := by rw [h.same]; rfl
  unfold Machine.pollWait
  rw [hread, hlog]
  dsimp only
  split
  · exact (h.host _ _).blockTurn
  · exact h.blockTurn

theorem Alike.afterStep {s t : State} (h : Alike s t) : Alike (afterStep s) (afterStep t) := by
  have hscript : t.script = s.script := by rw [h.same]; rfl
  have hrest (rest : List HostStmt) : Alike { s with script := rest } { t with script := rest } := by
    rw [h.same]
    exact h.graft (u := { s with script := rest }) rfl
  unfold Machine.afterStep
  rw [hscript]
  rcases s.script with _ | ⟨p | _, rest⟩
  · exact h.blockTurn
  · dsimp only
    split
    · exact (hrest rest).resetEvent
    · exact ((hrest rest).afterHost p).blockTurn
  · exact h.pollWait rest

theorem Alike.runsTo {s t u v : State} {n : Nat} (h : Alike s t) (hu : runsTo n s u) (hv : runsTo n t v) :
    Alike u v := by
  induction n generalizing s t with
  | zero =>
    obtain rfl := (runsTo_zero s u).mp hu
    obtain rfl := (runsTo_zero t v).mp hv
    exact h
  | succ n ih => exact ih h.afterStep ((runsTo_succ n s u).mp hu) ((runsTo_succ n t v).mp hv)

theorem Alike.sameView {s t : State} (h : Alike s t) : sameView s t := by
  rw [h.same]
  exact ⟨rfl, rfl, rfl, rfl, rfl, fun _ => rfl, rfl, rfl⟩

end Sys2Proof.Machine

namespace Sys2Proof

open Machine

/-- Settles O50 (R37): blocks that are not busy and differ in hidden registers only are alike, every step keeps them so,
and what is alike looks alike. -/
theorem hiddenRegistersNeverShow : Obligations.HiddenRegistersNeverShow :=
  fun _ _ hidle hsame _ _ _ hu hv => ((Alike.of_not_busy hidle hsame).runsTo hu hv).sameView

end Sys2Proof

/-! PROOF of O6. A word that decodes has the command's opcode in its three low bits and nothing above them. -/

namespace Sys2Proof

theorem eq_encode_of_decodeWord {w : Word} {i : Instr} (h : decodeWord w = some i) : w = encode i := by
  obtain ⟨hzero, hop⟩ := decodeWord_fields h
  have hlow := congrArg BitVec.toNat (opcodeOf_of_decodeOp hop)
  rw [zeroField_eq_zero_iff] at hzero
  rw [opField_toNat, Nat.mod_eq_of_lt hzero] at hlow
  exact BitVec.eq_of_toNat_eq (hlow.trans (encode_toNat i).symm)

/-- Settles O6 (R70, R72): the encoding's fields decode to the command, and no other word has them. -/
theorem decodingInvertsEncoding : Obligations.DecodingInvertsEncoding := by
  refine fun w i => ⟨eq_encode_of_decodeWord, ?_⟩
  rintro rfl
  exact decodeWord_encode i

end Sys2Proof

/-! PROOF of O9. The command step by the class of its word: reserved, modular, or `ISPRIME`. -/

namespace Sys2Proof

theorem decodeWord_eq_none_iff (w : Word) :
    decodeWord w = none ↔ w.extractLsb' 3 61 ≠ 0#61 ∨ 4 < (w.extractLsb' 0 3).toNat := by
  rw [← Option.not_isSome_iff_eq_none, decodeWord_isSome_iff, not_and_or, Nat.not_le]
  rfl

theorem opcodeOf_le_three_iff (i : Instr) : (opcodeOf i).toNat ≤ 3 ↔ Machine.needsModulus i = true := by
  cases i <;> decide

theorem opField_le_three_iff {w : Word} {i : Instr} (h : decodeWord w = some i) :
    (w.extractLsb' 0 3).toNat ≤ 3 ↔ Machine.needsModulus i = true := by
  obtain ⟨-, hop⟩ := decodeWord_fields h
  rw [← opcodeOf_le_three_iff, ← opcodeOf_of_decodeOp hop]
  rfl

end Sys2Proof

namespace Sys2Proof.Machine

theorem afterCommand_of_some {w : Word} {i : Instr} (h : decodeWord w = some i) (s : State) :
    afterCommand w s = commandOf i s := by
  rw [afterCommand, h]

theorem afterCommand_of_none {w : Word} (h : decodeWord w = none) (s : State) :
    afterCommand w s = reservedCommand s := by
  rw [afterCommand, h]

theorem afterCommand_of_busy (w : Word) {s : State} (hfault : anyFault s.status = false)
    (hbusy : s.status.busy = true) : afterCommand w s = faultEntry .overrun s := by
  unfold afterCommand commandOf reservedCommand
  rw [hfault, hbusy]
  cases decodeWord w <;> rfl

section Idle

variable {s : State} (h : Idle s)

include h

theorem reservedCommand_of_idle : reservedCommand s = faultEntry .illegalCommand s := by
  obtain ⟨hbusy, hfault⟩ := h
  rw [reservedCommand, hfault, hbusy]
  rfl

theorem commandOf_of_modulusZero {i : Instr} (hi : needsModulus i = true) (hopm : s.opm = 0#64) :
    commandOf i s = faultEntry .modulusZero s := by
  obtain ⟨hbusy, hfault⟩ := h
  rw [commandOf, hfault, hbusy, hi, hopm]
  rfl

end Idle

theorem needsModulus_iff (i : Instr) : needsModulus i = true ↔ i ≠ .isprime := by
  cases i <;> decide

end Sys2Proof.Machine

namespace Sys2Proof

open Machine

/-- Settles O9 (R75): phase FAULTED, `Overrun`, and in an idle block the three kinds of word. -/
theorem commandStepIsTheSpecs : Obligations.CommandStepIsTheSpecs := by
  intro w s
  refine ⟨afterCommand w s, commandStep_eq w s, afterCommand_of_anyFault w, afterCommand_of_busy w,
    fun hfault hbusy hreserved => ?_, fun hfault hbusy hzero hop hopm => ?_, fun hfault hbusy hzero hop hopm => ?_⟩
  · rw [afterCommand_of_none ((decodeWord_eq_none_iff w).mpr hreserved), reservedCommand_of_idle ⟨hbusy, hfault⟩]
    rfl
  · obtain ⟨i, hi⟩ := Option.isSome_iff_exists.mp ((decodeWord_isSome_iff w).mpr ⟨hzero, hop.trans (by decide)⟩)
    rw [afterCommand_of_some hi,
      commandOf_of_modulusZero ⟨hbusy, hfault⟩ ((opField_le_three_iff hi).mp hop) hopm]
    rfl
  · obtain ⟨i, hi⟩ := Option.isSome_iff_exists.mp ((decodeWord_isSome_iff w).mpr ⟨hzero, hop⟩)
    have hm (hne : i ≠ .isprime) := hopm ((opField_le_three_iff hi).mpr ((needsModulus_iff i).mpr hne))
    rw [afterCommand_of_some hi, commandOf_of_idle ⟨hbusy, hfault⟩ hm, ← eq_encode_of_decodeWord hi]
    rfl

end Sys2Proof

/-! PROOF of O13. A command is accepted, faults, or does nothing, and each of these has its own frame. -/

namespace Sys2Proof

open Machine

/-- Settles O13 (R75, R210): the frame of each outcome of the command step. -/
theorem commandsLeaveTheRestAlone : Obligations.CommandsLeaveTheRestAlone := by
  intro i s t hexec
  obtain rfl : commandOf i s = t := Host.Outcome.next.inj ((exec_eq i s).symm.trans hexec)
  obtain ⟨-, heq⟩ | ⟨-, -, heq⟩ | ⟨-, -, -, -, heq⟩ | ⟨-, -, -, heq⟩ := commandOf_cases i s <;> rw [heq]
  · exact ⟨rfl, fun _ => ⟨rfl, rfl, rfl, rfl, rfl⟩, fun _ _ => ⟨rfl, rfl, rfl⟩⟩
  · exact ⟨rfl, fun _ => ⟨rfl, rfl, rfl, rfl, rfl⟩, nofun⟩
  · exact ⟨rfl, fun _ => ⟨rfl, rfl, rfl, rfl, rfl⟩, nofun⟩
  · exact ⟨rfl, nofun, fun _ _ => ⟨rfl, rfl, rfl⟩⟩

end Sys2Proof

/-! PROOF of O20. In phase FAULTED the command step and the block's part of an edge do nothing; what is left are
operand writes and reads. -/

namespace Sys2Proof.Machine

theorem clockEdge_inj {p : PortsIn} {s t : State} (hp : p.rst = false) (h : clockEdge p s = .next t) :
    t = blockTurn (afterHost p s) := by
  have heq := Host.Outcome.next.inj ((clockEdge_eq p s).symm.trans h)
  rw [hp] at heq
  exact heq.symm

/-- `STATUS` in phase FAULTED (R27). -/
theorem phaseOf_eq_faulted {st : Status} (h : phaseOf st = some .faulted) :
    anyFault st = true ∧ st.busy = false := by
  obtain ⟨busy, done, mzero, illegal, overrun⟩ := st
  revert busy done mzero illegal overrun
  decide

/-- u is s but for the operand registers, the host's log and the count of draws. -/
def SameButOperandsAndLog (s u : State) : Prop :=
  u = { s with opa := u.opa, opb := u.opb, opm := u.opm, readLog := u.readLog, freeCount := u.freeCount }

section OperandWrite

variable (i : RegIndex) (v : Word) (s : State)

theorem storeRegister_frame : SameButOperandsAndLog s (storeRegister i v s) := by
  unfold storeRegister
  split <;> rfl

theorem storeRegister_operands :
    (storeRegister i v s).opa = (if i = 0#3 then v else s.opa) ∧
      (storeRegister i v s).opb = (if i = 1#3 then v else s.opb) ∧
      (storeRegister i v s).opm = if i = 2#3 then v else s.opm := by
  have hindex (k : RegIndex) : i = k ↔ i.toNat = k.toNat := BitVec.toNat_inj.symm
  simp only [hindex]
  unfold storeRegister
  split
  next h => rw [h]; exact ⟨rfl, rfl, rfl⟩
  next h => rw [h]; exact ⟨rfl, rfl, rfl⟩
  next h => rw [h]; exact ⟨rfl, rfl, rfl⟩
  next h0 h1 h2 => exact ⟨(if_neg h0).symm, (if_neg h1).symm, (if_neg h2).symm⟩

theorem readToLog_frame : SameButOperandsAndLog s (readToLog i s) := by
  unfold readToLog afterRead
  split <;> rfl

end OperandWrite

end Sys2Proof.Machine

namespace Sys2Proof

open Machine

/-- Settles O20 (R210): what each kind of host transaction does in phase FAULTED. -/
theorem faultedBlockIsQuiescent : Obligations.FaultedBlockIsQuiescent := by
  intro p s t hphase hp hedge
  obtain ⟨hfault, hbusy⟩ := phaseOf_eq_faulted hphase
  have ht := clockEdge_inj hp hedge
  rw [blockTurn_of_not_busy (by rw [afterHost_status_of_anyFault p hfault, hbusy])] at ht
  obtain rfl := ht
  cases hreq : p.req with
  | false => rw [afterHost_of_no_request s hreq]; simp
  | true =>
    cases hwe : p.we with
    | false =>
      rw [afterHost_read hreq s hwe]
      exact ⟨readToLog_frame .., by simp⟩
    | true =>
      by_cases hidx : p.idx = 3#3
      · rw [afterHost_command hreq s hwe hidx, afterCommand_of_anyFault p.wdata hfault]
        simp [hidx]
      · obtain ⟨hopa, hopb, hopm⟩ := storeRegister_operands p.idx p.wdata s
        rw [afterHost_store hreq s hwe hidx]
        exact ⟨storeRegister_frame .., by simpa using hopa, by simpa using hopb, by simpa using hopm, by simp⟩

end Sys2Proof

/-! PROOF of O21. The block's part of an edge touches no fault bit, and of the host's transactions only a write to `CMD`
touches `STATUS`; there the command step says what was raised and why. -/

namespace Sys2Proof.Machine

theorem SameFaults.anyFault_eq {st st' : Status} (h : SameFaults st st') : anyFault st' = anyFault st := by
  unfold anyFault
  rw [h.fMzero, h.fIllegal, h.fOverrun]

theorem anyFault_eq_false_iff (st : Status) :
    anyFault st = false ↔ st.fMzero = false ∧ st.fIllegal = false ∧ st.fOverrun = false := by
  simp [anyFault, and_assoc]

theorem HostQuiet.status {s u : State} (h : HostQuiet s u) : u.status = s.status := by
  rw [h.graft]
  rfl

/-- Each fault bit that the status st has stands for its cause (R200), in a block that was in state s when w was
written to `CMD`. -/
structure FaultCauses (s : State) (w : Word) (st : Status) : Prop where
  overrun : st.fOverrun = true → s.status.busy = true
  illegal : st.fIllegal = true → s.status.busy = false ∧ decodeWord w = none
  mzero : st.fMzero = true → s.status.busy = false ∧ s.opm = 0#64 ∧ ∃ i, decodeWord w = some i ∧ i ≠ .isprime

/-- A write to `CMD` sets a fault bit only for its cause (R200, R204). -/
theorem faultCauses_afterCommand {s : State} (w : Word) (hfault : anyFault s.status = false) :
    FaultCauses s w (afterCommand w s).status := by
  obtain ⟨hmzero, hillegal, hoverrun⟩ := (anyFault_eq_false_iff _).mp hfault
  have clear {b : Bool} {P : Prop} (hb : b = false) (ht : b = true) : P := Bool.noConfusion (hb.symm.trans ht)
  cases hw : decodeWord w with
  | none =>
    rw [afterCommand_of_none hw]
    obtain ⟨hf, -⟩ | ⟨-, hbusy, heq⟩ | ⟨-, hbusy, heq⟩ := reservedCommand_cases s
    · exact clear hfault hf
    · rw [heq]
      exact ⟨fun _ => hbusy, clear hillegal, clear hmzero⟩
    · rw [heq]
      exact ⟨clear hoverrun, fun _ => ⟨hbusy, hw⟩, clear hmzero⟩
  | some i =>
    rw [afterCommand_of_some hw]
    obtain ⟨hf, -⟩ | ⟨-, hbusy, heq⟩ | ⟨-, hbusy, hi, hopm, heq⟩ | ⟨-, -, -, heq⟩ := commandOf_cases i s
    · exact clear hfault hf
    · rw [heq]
      exact ⟨fun _ => hbusy, clear hillegal, clear hmzero⟩
    · rw [heq]
      exact ⟨clear hoverrun, clear hillegal, fun _ => ⟨hbusy, hopm, i, hw, (needsModulus_iff i).mp hi⟩⟩
    · rw [heq]
      exact ⟨clear hoverrun, clear hillegal, clear hmzero⟩

end Sys2Proof.Machine

namespace Sys2Proof

open Machine

/-- Settles O21 (R200, R204): the edge's host part was a write to `CMD`, and the bits it set have their causes. -/
theorem onlyCommandWritesFault : Obligations.OnlyCommandWritesFault := by
  intro p s t hp hedge hfault hfault'
  obtain rfl := clockEdge_inj hp hedge
  have hsame := sameFaults_blockTurn (afterHost p s)
  have hloud : ¬QuietPorts p := fun hquiet => by
    rw [hsame.anyFault_eq, (afterHost_quiet hquiet s).status, hfault] at hfault'
    exact Bool.noConfusion hfault'
  obtain ⟨hreq, hwe, hidx⟩ := request_of_not_quiet hp hloud
  rw [afterHost_command hreq s hwe hidx] at hsame ⊢
  have hcauses := faultCauses_afterCommand p.wdata hfault
  rw [hsame.fOverrun, hsame.fIllegal, hsame.fMzero]
  exact ⟨hreq, hwe, hidx, hcauses.overrun, hcauses.illegal, hcauses.mzero⟩

end Sys2Proof

/-! PROOF of O24. Outside phase BUSY a quiet edge is a host transaction that leaves the block alone. -/

namespace Sys2Proof.Machine

theorem readValue_result {s : State} (h : resultHidden s = false) : readValue 5#3 s = s.result := by
  show (if resultHidden s then _ else s.result) = s.result
  rw [h, if_neg Bool.false_ne_true]

theorem clockEdge_of_quiet {p : PortsIn} {s t : State} (hp : QuietPorts p) (hbusy : s.status.busy = false)
    (h : clockEdge p s = .next t) : t = afterHost p s := by
  have ht := clockEdge_inj hp.1 h
  rwa [blockTurn_of_not_busy (by rw [(afterHost_quiet hp s).status, hbusy])] at ht

end Sys2Proof.Machine

namespace Sys2Proof

open Machine

/-- Settles O24 (R22, R58): the edge is one host transaction, none of which reaches `RESULT`, `STATUS` or `CMD`. -/
theorem completedResultStays : Obligations.CompletedResultStays := by
  intro p s t hphase hp hedge
  have hdone := (phaseOf_eq_idleDone_iff _).mp hphase
  have hquiet := afterHost_quiet hp s
  obtain rfl := clockEdge_of_quiet hp (by rw [hdone]; rfl) hedge
  refine ⟨by rw [hquiet.graft]; rfl, hquiet.status, hquiet.cmd, fun hreq hwe hidx => ?_⟩
  have hshown : resultHidden s = false := by rw [resultHidden, hdone]; rfl
  rw [afterHost_read hreq s hwe, readToLog_readLog, hidx, readValue_result hshown]

end Sys2Proof

/-! PROOF of O25. What an accepted command delivers, it delivers at every number of level-B steps: until then the block
is busy. -/

namespace Sys2Proof.Machine

theorem Delivers.blockSteps {v : Word} {s : State} (h : Delivers v s) (k : Nat) : Delivers v (blockSteps k s) := by
  refine blockSteps_keeps (P := Delivers v) (fun u hbusy hu => ?_) k s h
  cases hu with
  | completed hstatus => rw [hstatus] at hbusy; exact Bool.noConfusion hbusy
  | running _ hnext => exact hnext

theorem Delivers.busy_or_done {v : Word} {s : State} (h : Delivers v s) :
    (s.status.busy = true ∧ s.status.done = false) ∨
      (s.status.busy = false ∧ s.status.done = true ∧ s.result = v) := by
  cases h with
  | completed hstatus hresult => exact .inr ⟨hstatus ▸ rfl, hstatus ▸ rfl, hresult⟩
  | running hstatus => exact .inl ⟨hstatus ▸ rfl, hstatus ▸ rfl⟩

theorem blockSteps_cmd (k : Nat) (s : State) : (blockSteps k s).cmd = s.cmd :=
  blockSteps_keeps (P := fun u => u.cmd = s.cmd) (fun u _ hu => (blockStep_cmd u).trans hu) k s rfl

end Sys2Proof.Machine

namespace Sys2Proof

open Machine

/-- Settles O25 (R253): the edge accepts the command and makes some number of its level-B steps. -/
theorem doneIsNeverStale : Obligations.DoneIsNeverStale := by
  intro p s t i h hp hreq hwe hidx hi hm hedge
  obtain rfl := clockEdge_inj hp hedge
  have hword := eq_encode_of_decodeWord hi
  rw [afterHost_command hreq s hwe hidx, afterCommand_of_some hi, commandOf_of_idle h hm]
  obtain ⟨k, ts, c, hturn⟩ := blockTurn_eq_blockSteps (accept (encode i) s)
  rw [hturn]
  have haccept := runs_accept (i := i) h
  have hruns : Runs i { accept (encode i) s with turns := ts, turnCount := c } := ⟨haccept.status, haccept.command⟩
  exact ⟨(blockSteps_cmd ..).trans hword.symm, ((hruns.delivers rfl).blockSteps k).busy_or_done⟩

end Sys2Proof

/-! PROOF of O27. After the load MUL makes one iteration for each bit of B and then completes. -/

namespace Sys2Proof.Machine

/-- The block has completed with v, and POW and MRE hold what they held in s. -/
def MulDone (v : Word) (s t : State) : Prop :=
  t.status.done = true ∧ t.result = v ∧ t.pow = s.pow ∧ t.mre = s.mre

section Modmul

variable {s : State} (hbusy : s.status.busy = true) (hcmd : decodeWord s.cmd = some .modmul)

include hbusy hcmd

theorem completesIn_of_blockModmul {P : State → Prop} {k : Nat} (h : CompletesIn P k (blockModmul s)) :
    CompletesIn P (k + 1) s :=
  .running hbusy (by rwa [blockStep, hcmd])

theorem completesIn_mulWhile (hload : s.loaded = true) :
    CompletesIn (MulDone (mulWhile s.mul.a s.mul.b s.mul.r s.mul.m) s) (bitlen s.mul.b + 1) s := by
  induction hk : bitlen s.mul.b generalizing s with
  | zero =>
    have hb := bitlen_eq_zero_iff.mp hk
    have hblock : blockModmul s = complete s.mul.r s := by simp [blockModmul, hload, hb]
    refine completesIn_of_blockModmul hbusy hcmd ?_
    rw [hblock, hb, mulWhile_done]
    exact completesIn_complete ⟨rfl, rfl, rfl, rfl⟩
  | succ k ih =>
    have hb : s.mul.b ≠ 0#64 := fun hb => Nat.succ_ne_zero k (hk.symm.trans (bitlen_eq_zero_iff.mpr hb))
    have hblock : blockModmul s = { s with mul := mulIterate s.mul } := by simp [blockModmul, hload, hb]
    rw [bitlen_shr1 hb] at hk
    refine completesIn_of_blockModmul hbusy hcmd ?_
    rw [hblock, mulWhile_unroll _ _ _ hb]
    exact ih (s := { s with mul := mulIterate s.mul }) hbusy hcmd hload (Nat.succ.inj hk)

theorem completesIn_modmul (hload : s.loaded = false) :
    CompletesIn (MulDone (MULM s.la s.lb s.lm) s) (bitlen s.lb + 2) s := by
  have hblock : blockModmul s = { s with mul := mulLoad s.la s.lb s.lm, loaded := true } := by
    simp [blockModmul, hload, operandA, operandB, operandM]
  refine completesIn_of_blockModmul hbusy hcmd ?_
  rw [hblock]
  exact completesIn_mulWhile (s := { s with mul := mulLoad s.la s.lb s.lm, loaded := true }) hbusy hcmd rfl

end Modmul

end Sys2Proof.Machine

namespace Sys2Proof

open Machine

/-- Settles O27 (R122): the load, one iteration for each bit of LB, and completion. -/
theorem mulTakesBitlenPlusTwoSteps : Obligations.MulTakesBitlenPlusTwoSteps := by
  intro s hbusy hcmd hload _
  have hcount := completesIn_modmul hbusy (hcmd ▸ rfl) hload
  exact ⟨hcount.busy_before, hcount.at_end⟩

end Sys2Proof

/-! PROOF of O28. After the load POW makes one iteration for each bit of B and then completes; MUL runs inside. -/

namespace Sys2Proof.Machine

/-- The block has completed with v, and MRE holds what it held in s. -/
def PowDone (v : Word) (s t : State) : Prop := t.status.done = true ∧ t.result = v ∧ t.mre = s.mre

section Modpow

variable {s : State} (hbusy : s.status.busy = true) (hcmd : decodeWord s.cmd = some .modpow)

include hbusy hcmd

theorem completesIn_of_blockModpow {P : State → Prop} {k : Nat} (h : CompletesIn P k (blockModpow s)) :
    CompletesIn P (k + 1) s :=
  .running hbusy (by rwa [blockStep, hcmd])

theorem completesIn_powWhile (hload : s.loaded = true) :
    CompletesIn (PowDone (powWhile s.pow.a s.pow.b s.pow.r s.pow.m) s) (bitlen s.pow.b + 1) s := by
  induction hk : bitlen s.pow.b generalizing s with
  | zero =>
    have hb := bitlen_eq_zero_iff.mp hk
    have hblock : blockModpow s = complete s.pow.r s := by simp [blockModpow, hload, hb]
    refine completesIn_of_blockModpow hbusy hcmd ?_
    rw [hblock, hb, powWhile_done]
    exact completesIn_complete ⟨rfl, rfl, rfl⟩
  | succ k ih =>
    have hb : s.pow.b ≠ 0#64 := fun hb => Nat.succ_ne_zero k (hk.symm.trans (bitlen_eq_zero_iff.mpr hb))
    have hblock : blockModpow s = { s with pow := powIterate s.pow, mul := powIterateMul s.pow } := by
      simp [blockModpow, hload, hb]
    rw [bitlen_shr1 hb] at hk
    refine completesIn_of_blockModpow hbusy hcmd ?_
    rw [hblock, powWhile_unroll _ _ _ hb]
    exact ih (s := { s with pow := powIterate s.pow, mul := powIterateMul s.pow }) hbusy hcmd hload (Nat.succ.inj hk)

theorem completesIn_modpow (hload : s.loaded = false) :
    CompletesIn (PowDone (POWM s.la s.lb s.lm) s) (bitlen s.lb + 2) s := by
  have hblock : blockModpow s = { s with pow := powLoad s.la s.lb s.lm, loaded := true } := by
    simp [blockModpow, hload, operandA, operandB, operandM]
  refine completesIn_of_blockModpow hbusy hcmd ?_
  rw [hblock]
  exact completesIn_powWhile (s := { s with pow := powLoad s.la s.lb s.lm, loaded := true }) hbusy hcmd rfl

end Modpow

end Sys2Proof.Machine

namespace Sys2Proof

open Machine

/-- Settles O28 (R137): the load, one iteration for each bit of LB, and completion. -/
theorem powTakesBitlenPlusTwoSteps : Obligations.PowTakesBitlenPlusTwoSteps := by
  intro s hbusy hcmd hload _
  have hcount := completesIn_modpow hbusy (hcmd ▸ rfl) hload
  exact ⟨hcount.busy_before, hcount.at_end⟩

end Sys2Proof

/-! PROOF of O1, O2 and O3. An edge with `rst = 1` is the event `Reset`, which sets every register of the block, the
hidden ones by draws that depend on the count of draws only. -/

namespace Sys2Proof.Machine

theorem clockEdge_reset {p : PortsIn} (hp : p.rst = true) (s : State) : clockEdge p s = .next (resetEvent s) := by
  rw [clockEdge_eq, if_pos hp]

/-- `Reset` keeps the host's and the model's own part of the state only. -/
theorem resetEvent_congr {s t : State} (hscript : s.script = t.script) (hlog : s.readLog = t.readLog)
    (hturns : s.turns = t.turns) (hcount : s.turnCount = t.turnCount) (hfree : s.freeCount = t.freeCount) :
    resetEvent s = resetEvent t := by
  unfold resetEvent
  rw [hscript, hlog, hturns, hcount, hfree]

end Sys2Proof.Machine

namespace Sys2Proof

open Machine

/-- Settles O1 (R240, R241): each register by what the event `Reset` writes to it. -/
theorem resetEdgeClearsTheBlock : Obligations.ResetEdgeClearsTheBlock := fun _ s hp =>
  ⟨resetEvent s, clockEdge_reset hp s, rfl, rfl, rfl, rfl, by rw [resetEvent_status]; decide, rfl, rfl, rfl, rfl, rfl,
    rfl, rfl, rfl, rfl, rfl, rfl, rfl, rfl, rfl⟩

/-- Settles O2 (R241): each register, flag and output of `State.reset` by its value. -/
theorem resetStateShowsZeros : Obligations.ResetStateShowsZeros :=
  ⟨rfl, rfl, rfl, rfl, rfl, rfl, rfl, rfl, rfl, rfl, rfl⟩

/-- Settles O3 (R242): the event `Reset` depends on what is no part of the block only. -/
theorem resetForgetsThePast : Obligations.ResetForgetsThePast := by
  intro p s t hp hscript hlog hturns hcount hfree
  rw [clockEdge_reset hp, clockEdge_reset hp, resetEvent_congr hscript hlog hturns hcount hfree]

end Sys2Proof

/-! PROOF of O4, O10, O11 and O12. The five command words are the encodings of the commands, and each outcome of the
command step is one of its equations. -/

namespace Sys2Proof.Machine

theorem commandOf_of_busy (i : Instr) {s : State} (hfault : anyFault s.status = false)
    (hbusy : s.status.busy = true) : commandOf i s = faultEntry .overrun s := by
  rw [← afterCommand_of_some (decodeWord_encode i), afterCommand_of_busy _ hfault hbusy]

end Sys2Proof.Machine

namespace Sys2Proof

open Machine

/-- Settles O4 (R72): each word is the encoding of its command. -/
theorem fiveWordsDecode : Obligations.FiveWordsDecode :=
  ⟨decodeWord_encode .modadd, decodeWord_encode .modsub, decodeWord_encode .modmul, decodeWord_encode .modpow,
    decodeWord_encode .isprime⟩

/-- Settles O10 (R75, R30): acceptance of each modular command. -/
theorem modularCommandsAreAccepted : Obligations.ModularCommandsAreAccepted := fun _ h hm =>
  ⟨exec_of_idle h fun _ => hm, exec_of_idle h fun _ => hm, exec_of_idle h fun _ => hm, exec_of_idle h fun _ => hm⟩

/-- Settles O11 (R75, R150): acceptance of `ISPRIME`, which no `OPM` prevents. -/
theorem isprimeIsAccepted : Obligations.IsprimeIsAccepted := fun _ h => exec_of_idle h (absurd rfl)

/-- Settles O12 (R201, R203, R210): each cause by the command step's equation for it. -/
theorem commandsTrapAsTheSpecSays : Obligations.CommandsTrapAsTheSpecSays := by
  refine ⟨fun i s hi h hopm => ?_, fun i s hfault hbusy => ?_, fun i s hfault => ?_⟩
  · rw [exec_eq, commandOf_of_modulusZero h ((needsModulus_iff i).mpr hi) hopm]
    rfl
  · rw [exec_eq, commandOf_of_busy i hfault hbusy]
    rfl
  · rw [exec_eq, commandOf_of_anyFault i hfault]

end Sys2Proof

/-! PROOF of O8. The host's next statement, a write to `CMD`, is taken from the script and then carried out. -/

namespace Sys2Proof

open Machine

/-- Settles O8 (R41, R75): the step is the edge of the statement in front, and its host part the command step. -/
theorem stepRunsTheDecodedCommand : Obligations.StepRunsTheDecodedCommand := by
  intro s rest w hscript
  have hstep : step s = .next (blockTurn (afterCommand w { s with script := rest })) := by
    rw [step_eq, afterStep_edge hscript rfl, afterHost_command rfl _ rfl rfl]
    rfl
  refine ⟨fun i hi => ?_, fun hnone => ?_, ?_⟩
  · rw [hstep, afterCommand_of_some hi, exec_eq]
  · rw [hstep, afterCommand_of_none hnone]
  · rw [State.withFetchWord, Nat.mod_eq_of_lt w.isLt, BitVec.ofNat_toNat, BitVec.setWidth_eq]
    rfl

end Sys2Proof

/-! PROOF of O14, O16 and O17. What each index reads; the host's part of an edge comes before the block's, which leaves
the host's side alone. -/

namespace Sys2Proof.Machine

theorem readValue_result_of_hidden {s : State} (h : resultHidden s = true) :
    readValue 5#3 s = Config.unspecified64 s.freeCount := by
  show (if resultHidden s then _ else s.result) = _
  rw [h, if_pos rfl]

/-- The number of the STATUS word (R26). -/
theorem statusWord_toNat (st : Status) : (statusWord st).toNat =
    st.busy.toNat + 2 * st.done.toNat + 4 * st.fMzero.toNat + 8 * st.fIllegal.toNat + 16 * st.fOverrun.toNat := by
  obtain ⟨busy, done, mzero, illegal, overrun⟩ := st
  revert busy done mzero illegal overrun
  decide

theorem readToLog_eq (i : RegIndex) (s : State) : readToLog i s = { s with
    readLog := s.readLog ++ [readValue i s]
    freeCount := if i = 5#3 ∧ resultHidden s = true then s.freeCount + 1 else s.freeCount } := by
  unfold readToLog afterRead
  split <;> rfl

/-- The block's part of an edge leaves the host's side alone. -/
theorem blockTurn_host (s : State) : (blockTurn s).script = s.script ∧ (blockTurn s).readLog = s.readLog ∧
    (blockTurn s).freeCount = s.freeCount := by
  obtain ⟨k, ts, c, hturn⟩ := blockTurn_eq_blockSteps s
  have hframe := blockSteps_frame k { s with turns := ts, turnCount := c }
  rw [hturn]
  generalize blockSteps k { s with turns := ts, turnCount := c } = u at hframe ⊢
  cases hframe
  exact ⟨rfl, rfl, rfl⟩

/-- The value `WAIT` polls has one of its bits 4:1 set exactly when the block is done or faulted (R78). -/
theorem statusWord_polled_iff (st : Status) :
    (statusWord st).extractLsb' 1 4 ≠ 0#4 ↔ st.done = true ∨ anyFault st = true := by
  obtain ⟨busy, done, mzero, illegal, overrun⟩ := st
  revert busy done mzero illegal overrun
  decide

end Sys2Proof.Machine

namespace Sys2Proof

open Machine

/-- Settles O14 (R53, R22): the read's effect, and its value index by index. -/
theorem regReadReturnsTheSpecsValue : Obligations.RegReadReturnsTheSpecsValue := by
  intro i s
  refine ⟨(hostTransaction_eq _ s).trans (congrArg _ (readToLog_eq i s)), rfl, ?_, ?_, ?_, ?_, ?_, ?_, ?_, ?_, ?_⟩
  · rintro rfl; rfl
  · rintro rfl; rfl
  · rintro rfl; rfl
  · rintro rfl; rfl
  · rintro rfl; exact statusWord_toNat s.status
  · rintro rfl hbusy
    exact readValue_result_of_hidden (by rw [resultHidden, hbusy, Bool.true_or])
  · rintro rfl hfault
    exact readValue_result_of_hidden (by rw [resultHidden, hfault, Bool.or_true])
  · rintro rfl hbusy hfault
    exact readValue_result (by rw [resultHidden, hbusy, hfault]; rfl)
  · rintro (rfl | rfl) <;> rfl

/-- Settles O16 (R41, R251): the read is of the state before the edge, and completion does not reach the log. -/
theorem readSeesTheStateBeforeTheEdge : Obligations.ReadSeesTheStateBeforeTheEdge := by
  intro s t hbusy hedge
  obtain rfl := clockEdge_inj rfl hedge
  have hhidden : resultHidden s = true := by rw [resultHidden, hbusy, Bool.true_or]
  obtain ⟨-, hlog, hfree⟩ := blockTurn_host (afterHost (portsRead 5#3) s)
  rw [hlog, hfree, afterHost_read rfl s rfl, readToLog_readLog, readToLog_freeCount]
  exact ⟨by rw [← readValue_result_of_hidden hhidden]; rfl, if_pos ⟨rfl, hhidden⟩⟩

/-- Settles O17 (R78): the poll tests the bits of the STATUS word, and the block's part of the edge does not reach the
script or the log. -/
theorem waitPollsStatus : Obligations.WaitPollsStatus := by
  intro s t rest hscript hst
  obtain rfl : afterStep s = t := Host.Outcome.next.inj ((step_eq s).symm.trans hst)
  have hread : readValue 4#3 s = statusWord s.status := rfl
  rw [afterStep_wait hscript, pollWait, hread]
  refine ⟨fun h => ?_, fun hdone hfault => ?_⟩
  · rw [if_pos ((statusWord_polled_iff _).mpr h)]
    obtain ⟨hscript', hlog, -⟩ := blockTurn_host { s with script := rest, readLog := s.readLog ++ [statusWord s.status] }
    exact ⟨hscript', hlog⟩
  · have hpoll : ¬(statusWord s.status).extractLsb' 1 4 ≠ 0#4 := by
      rw [statusWord_polled_iff, hdone, hfault]
      decide
    rw [if_neg hpoll]
    obtain ⟨hscript', hlog, -⟩ := blockTurn_host s
    exact ⟨hscript', hlog⟩

end Sys2Proof

/-! PROOF of O26. The units of `MODADD` and `MODSUB` only complete. -/

namespace Sys2Proof

open Machine

/-- Settles O26 (R106, R116): the step `CMD` selects is `Complete` with the unit's value. -/
theorem addAndSubCompleteInOneStep : Obligations.AddAndSubCompleteInOneStep := by
  refine fun s _ => ⟨fun hcmd => ?_, fun hcmd => ?_⟩
  · have hdecode : decodeWord s.cmd = some .modadd := hcmd ▸ rfl
    rw [blockStep, hdecode]
    rfl
  · have hdecode : decodeWord s.cmd = some .modsub := hcmd ▸ rfl
    rw [blockStep, hdecode]
    rfl

end Sys2Proof

/-! PROOF of O42. The table by its entries. -/

namespace Sys2Proof.Machine

theorem tableBase_le (k : Fin 12) : (tableBase k).toNat ≤ 37 := by
  revert k; decide

/-- From 39 on every base is eligible. -/
theorem eligibleCount_of_le {n : Nat} (hn : 39 ≤ n) : eligibleCount n = 12 := by
  have hall : ∀ k ∈ List.finRange 12, decide ((tableBase k).toNat + 2 ≤ n) = true := fun k _ =>
    decide_eq_true ((Nat.add_le_add_right (tableBase_le k) 2).trans hn)
  rw [eligibleCount, List.filter_eq_self.mpr hall, List.length_finRange]

end Sys2Proof.Machine

namespace Sys2Proof

open Machine

/-- Settles O42 (R34, R154, R165): the entries, their order, and how many are eligible for each odd n. -/
theorem eligibleBasesAreTheSpecs : Obligations.EligibleBasesAreTheSpecs :=
  ⟨rfl, fun _ _ => tableBase_strictMono, fun _ k h => ⟨two_le_tableBase k, h⟩, by decide,
    fun _ => eligibleCount_of_le⟩

end Sys2Proof

/-! PROOF of O45. Right after reset no command runs and none has completed. -/

namespace Sys2Proof

open Machine

/-- Settles O45 (R241): with BUSY and DONE 0 the invariant asks for a legal phase and a command word. -/
theorem invariantHoldsAfterReset : Obligations.InvariantHoldsAfterReset :=
  inv_of_not_busy_not_done rfl rfl rfl rfl

end Sys2Proof
